-- ==== Sys2Proof/Word.lean ====
section
/-! DEFINITION. The word types of the CHIP-8 block (spec/00_scope.md R5, R7, R8): all values are unsigned. -/

namespace Sys2Proof

/-- An 8-bit value: a general register, a timer, a byte of memory (R5). -/
abbrev Byte := BitVec 8

/-- A 16-bit value: an instruction word, and the registers PC and I and a stack entry, which R22 to R24
hold as 16-bit values kept inside 12 bits. -/
abbrev Word := BitVec 16

/-- The number of a general register, of a stack entry or of a key: one of 16 (R5). -/
abbrev Reg := Fin 16

end Sys2Proof
end

