-- ==== Sys2Proof/Syntax.lean ====
section
/-! DEFINITION. The instruction set as syntax: one constructor for each of the 34 rows of spec/30_encoding.md R92
(spec/opcode_table.json). Register operands are register numbers, `nn` is an unsigned byte used as it is, `nnn` is
an address used as it is (a 16-bit value that WellFormed.lean keeps inside 12 bits), `n` is a count (R82). -/

namespace Sys2Proof

/-- The 34 instructions of R92, in the table's order. -/
inductive Instr where
  /-- `00E0`, clear the screen (R210). -/
  | cls
  /-- `00EE`, return from subroutine (R112). -/
  | ret
  /-- `1NNN`, absolute jump (R113). -/
  | jp (nnn : Word)
  /-- `2NNN`, call subroutine (R114). -/
  | call (nnn : Word)
  /-- `3XNN`, skip if VX equals NN (R115). -/
  | seImm (x : Reg) (nn : Byte)
  /-- `4XNN`, skip if VX differs from NN (R116). -/
  | sneImm (x : Reg) (nn : Byte)
  /-- `5XY0`, skip if VX equals VY (R117); the word's low nibble is not decoded (R86), so it is no operand. -/
  | seReg (x y : Reg)
  /-- `6XNN`, load immediate (R142). -/
  | ldImm (x : Reg) (nn : Byte)
  /-- `7XNN`, add immediate without flag (R143). -/
  | addImm (x : Reg) (nn : Byte)
  /-- `8XY0`, register copy (R144). -/
  | mov (x y : Reg)
  /-- `8XY1`, bitwise or (R145). -/
  | or (x y : Reg)
  /-- `8XY2`, bitwise and (R146). -/
  | and (x y : Reg)
  /-- `8XY3`, bitwise exclusive or (R147). -/
  | xor (x y : Reg)
  /-- `8XY4`, add with carry out (R148). -/
  | add (x y : Reg)
  /-- `8XY5`, VX minus VY (R149). -/
  | sub (x y : Reg)
  /-- `8XY6`, shift right by one (R150). -/
  | shr (x y : Reg)
  /-- `8XY7`, VY minus VX (R151). -/
  | subn (x y : Reg)
  /-- `8XYE`, shift left by one (R152). -/
  | shl (x y : Reg)
  /-- `9XY0`, skip if VX differs from VY (R118); the word's low nibble is not decoded (R86). -/
  | sneReg (x y : Reg)
  /-- `ANNN`, load the index register (R180). -/
  | ldI (nnn : Word)
  /-- `BNNN`, jump indexed by V0 (R119). -/
  | jpV0 (nnn : Word)
  /-- `CXNN`, random byte masked (R153). -/
  | rnd (x : Reg) (nn : Byte)
  /-- `DXYN`, draw an N-row sprite (R211). -/
  | drw (x y : Reg) (n : Nat)
  /-- `EX9E`, skip if key VX is pressed (R231). -/
  | skp (x : Reg)
  /-- `EXA1`, skip if key VX is not pressed (R232). -/
  | sknp (x : Reg)
  /-- `FX07`, read the delay timer (R233). -/
  | ldVxDt (x : Reg)
  /-- `FX0A`, wait for a key (R234). -/
  | ldVxK (x : Reg)
  /-- `FX15`, set the delay timer (R235). -/
  | ldDtVx (x : Reg)
  /-- `FX18`, set the sound timer (R236). -/
  | ldStVx (x : Reg)
  /-- `FX1E`, add VX to I (R181). -/
  | addIVx (x : Reg)
  /-- `FX29`, point I at a font glyph (R182). -/
  | ldFVx (x : Reg)
  /-- `FX33`, store the decimal digits of VX (R183). -/
  | ldBVx (x : Reg)
  /-- `FX55`, store V0..VX (R184). -/
  | ldMemVx (x : Reg)
  /-- `FX65`, load V0..VX (R185). -/
  | ldVxMem (x : Reg)
deriving DecidableEq, Repr

end Sys2Proof
end

