-- ==== Sys2Proof/Decode.lean ====
section
/-! DEFINITION. The instruction word, its fields, the two-level decoder, the encoder and the opcode table
(spec/30_encoding.md R80 to R92). The decoder is total on every word and on every list of bytes and rejects by name. -/

namespace Sys2Proof

/-- `v[hi:lo]`, the unsigned integer formed by bits `hi` down to `lo` of `v` (spec/00_scope.md R7). -/
def bits (hi lo : Nat) (v : Word) : Nat := v.toNat / 2 ^ lo % 2 ^ (hi + 1 - lo)

/-- The 16-bit word whose bits 15..8 are `hi` and bits 7..0 are `lo`: instructions are big-endian (R64, R65). -/
def wordOfBytes (hi lo : Byte) : Word := BitVec.ofNat 16 (hi.toNat * 256 + lo.toNat)

/-- The byte at the lower address of a big-endian word (R65). -/
def highByte (op : Word) : Byte := BitVec.ofNat 8 (bits 15 8 op)

/-- The byte at the higher address of a big-endian word (R65). -/
def lowByte (op : Word) : Byte := BitVec.ofNat 8 (bits 7 0 op)

/-- The register number in `op[lo+3:lo]` (R81). -/
def regAt (lo : Nat) (op : Word) : Reg := ⟨op.toNat / 2 ^ lo % 16, Nat.mod_lt _ (by decide)⟩

/-- Field `X`, `op[11:8]` (R81). -/
def fieldX (op : Word) : Reg := regAt 8 op

/-- Field `Y`, `op[7:4]` (R81). -/
def fieldY (op : Word) : Reg := regAt 4 op

/-- Field `N`, `op[3:0]` (R81). -/
def fieldN (op : Word) : Nat := bits 3 0 op

/-- Field `NN`, `op[7:0]` (R81). -/
def fieldNN (op : Word) : Byte := BitVec.ofNat 8 (bits 7 0 op)

/-- Field `NNN`, `op[11:0]` (R81). -/
def fieldNNN (op : Word) : Word := BitVec.ofNat 16 (bits 11 0 op)

/-- Why the decoder gives no instruction. -/
inductive Reject where
  /-- The word matches no instruction (R87). -/
  | unknownOpcode (op : Word)
  /-- Fewer than the two bytes of an instruction are there (R80). -/
  | truncated
deriving DecidableEq, Repr

/-- Second-level dispatch of the majors `0x8`: on `op & 0x000F` (R85). -/
def decodeAlu (op : Word) : Except Reject Instr :=
  match fieldN op with
  | 0x0 => .ok (.mov (fieldX op) (fieldY op))
  | 0x1 => .ok (.or (fieldX op) (fieldY op))
  | 0x2 => .ok (.and (fieldX op) (fieldY op))
  | 0x3 => .ok (.xor (fieldX op) (fieldY op))
  | 0x4 => .ok (.add (fieldX op) (fieldY op))
  | 0x5 => .ok (.sub (fieldX op) (fieldY op))
  | 0x6 => .ok (.shr (fieldX op) (fieldY op))
  | 0x7 => .ok (.subn (fieldX op) (fieldY op))
  | 0xE => .ok (.shl (fieldX op) (fieldY op))
  | _ => .error (.unknownOpcode op)

/-- Second-level dispatch of the major `0xE`: on `op & 0x00FF` (R85). -/
def decodeKey (op : Word) : Except Reject Instr :=
  match bits 7 0 op with
  | 0x9E => .ok (.skp (fieldX op))
  | 0xA1 => .ok (.sknp (fieldX op))
  | _ => .error (.unknownOpcode op)

/-- Second-level dispatch of the major `0xF`: on `op & 0x00FF` (R85). -/
def decodeMisc (op : Word) : Except Reject Instr :=
  match bits 7 0 op with
  | 0x07 => .ok (.ldVxDt (fieldX op))
  | 0x0A => .ok (.ldVxK (fieldX op))
  | 0x15 => .ok (.ldDtVx (fieldX op))
  | 0x18 => .ok (.ldStVx (fieldX op))
  | 0x1E => .ok (.addIVx (fieldX op))
  | 0x29 => .ok (.ldFVx (fieldX op))
  | 0x33 => .ok (.ldBVx (fieldX op))
  | 0x55 => .ok (.ldMemVx (fieldX op))
  | 0x65 => .ok (.ldVxMem (fieldX op))
  | _ => .error (.unknownOpcode op)

/-- Second-level dispatch of the major `0x0`: on all of `op` (R85, D3). -/
def decodeFixed (op : Word) : Except Reject Instr :=
  match op.toNat with
  | 0x00E0 => .ok .cls
  | 0x00EE => .ok .ret
  | _ => .error (.unknownOpcode op)

/-- `Decode(op)` of R89: first-level dispatch on the major opcode `op[15:12]` (R84). The low nibble of the majors
`0x5` and `0x9` is not examined (R86, D29). -/
def decode (op : Word) : Except Reject Instr :=
  match bits 15 12 op with
  | 0x0 => decodeFixed op
  | 0x1 => .ok (.jp (fieldNNN op))
  | 0x2 => .ok (.call (fieldNNN op))
  | 0x3 => .ok (.seImm (fieldX op) (fieldNN op))
  | 0x4 => .ok (.sneImm (fieldX op) (fieldNN op))
  | 0x5 => .ok (.seReg (fieldX op) (fieldY op))
  | 0x6 => .ok (.ldImm (fieldX op) (fieldNN op))
  | 0x7 => .ok (.addImm (fieldX op) (fieldNN op))
  | 0x8 => decodeAlu op
  | 0x9 => .ok (.sneReg (fieldX op) (fieldY op))
  | 0xA => .ok (.ldI (fieldNNN op))
  | 0xB => .ok (.jpV0 (fieldNNN op))
  | 0xC => .ok (.rnd (fieldX op) (fieldNN op))
  | 0xD => .ok (.drw (fieldX op) (fieldY op) (fieldN op))
  | 0xE => decodeKey op
  | _ => decodeMisc op

/-- Decoding on bytes: the instruction at the front of a list of bytes and the bytes after it; every instruction
is two bytes, big-endian (R80, R64). -/
def decodeBytes : List Byte → Except Reject (Instr × List Byte)
  | hi :: lo :: rest =>
    match decode (wordOfBytes hi lo) with
    | .ok i => .ok (i, rest)
    | .error e => .error e
  | _ => .error .truncated

/-- A word from its major opcode and three nibbles (the formats XY, XYN of R83). -/
def packXYN (major : Nat) (x y : Reg) (n : Nat) : Word :=
  BitVec.ofNat 16 (major * 0x1000 + x.val * 0x100 + y.val * 0x10 + n)

/-- A word from its major opcode, a register and a low byte (the formats XNN, XFN of R83). -/
def packXNN (major : Nat) (x : Reg) (nn : Nat) : Word :=
  BitVec.ofNat 16 (major * 0x1000 + x.val * 0x100 + nn)

/-- A word from its major opcode and an address (the format NNN of R83). -/
def packNNN (major : Nat) (nnn : Word) : Word :=
  BitVec.ofNat 16 (major * 0x1000 + nnn.toNat)

/-- The word of a well-formed instruction (R83, R92); the nibble that `5XY0` and `9XY0` do not decode is 0. -/
def encode : Instr → Word
  | .cls => 0x00E0
  | .ret => 0x00EE
  | .jp nnn => packNNN 0x1 nnn
  | .call nnn => packNNN 0x2 nnn
  | .seImm x nn => packXNN 0x3 x nn.toNat
  | .sneImm x nn => packXNN 0x4 x nn.toNat
  | .seReg x y => packXYN 0x5 x y 0x0
  | .ldImm x nn => packXNN 0x6 x nn.toNat
  | .addImm x nn => packXNN 0x7 x nn.toNat
  | .mov x y => packXYN 0x8 x y 0x0
  | .or x y => packXYN 0x8 x y 0x1
  | .and x y => packXYN 0x8 x y 0x2
  | .xor x y => packXYN 0x8 x y 0x3
  | .add x y => packXYN 0x8 x y 0x4
  | .sub x y => packXYN 0x8 x y 0x5
  | .shr x y => packXYN 0x8 x y 0x6
  | .subn x y => packXYN 0x8 x y 0x7
  | .shl x y => packXYN 0x8 x y 0xE
  | .sneReg x y => packXYN 0x9 x y 0x0
  | .ldI nnn => packNNN 0xA nnn
  | .jpV0 nnn => packNNN 0xB nnn
  | .rnd x nn => packXNN 0xC x nn.toNat
  | .drw x y n => packXYN 0xD x y n
  | .skp x => packXNN 0xE x 0x9E
  | .sknp x => packXNN 0xE x 0xA1
  | .ldVxDt x => packXNN 0xF x 0x07
  | .ldVxK x => packXNN 0xF x 0x0A
  | .ldDtVx x => packXNN 0xF x 0x15
  | .ldStVx x => packXNN 0xF x 0x18
  | .addIVx x => packXNN 0xF x 0x1E
  | .ldFVx x => packXNN 0xF x 0x29
  | .ldBVx x => packXNN 0xF x 0x33
  | .ldMemVx x => packXNN 0xF x 0x55
  | .ldVxMem x => packXNN 0xF x 0x65

/-- The two bytes of a well-formed instruction, lowest address first (R64). -/
def encodeBytes (i : Instr) : List Byte := [highByte (encode i), lowByte (encode i)]

/-- One row of the opcode table: the mnemonic, and its fixed bits as (hi, lo, value), as
spec/opcode_table.json lists them. -/
structure Row where
  mnemonic : String
  fixed : List (Nat × Nat × Nat)
deriving DecidableEq, Repr

/-- The word has the row's fixed bits. -/
def Row.fits (r : Row) (op : Word) : Bool :=
  r.fixed.all (fun f => bits f.1 f.2.1 op == f.2.2)

/-- The row of spec/opcode_table.json that each constructor stands for. -/
def Instr.row : Instr → Row
  | .cls => ⟨"CLS", [(15, 0, 0x00E0)]⟩
  | .ret => ⟨"RET", [(15, 0, 0x00EE)]⟩
  | .jp _ => ⟨"JP", [(15, 12, 0x1)]⟩
  | .call _ => ⟨"CALL", [(15, 12, 0x2)]⟩
  | .seImm _ _ => ⟨"SE_IMM", [(15, 12, 0x3)]⟩
  | .sneImm _ _ => ⟨"SNE_IMM", [(15, 12, 0x4)]⟩
  | .seReg _ _ => ⟨"SE_REG", [(15, 12, 0x5)]⟩
  | .ldImm _ _ => ⟨"LD_IMM", [(15, 12, 0x6)]⟩
  | .addImm _ _ => ⟨"ADD_IMM", [(15, 12, 0x7)]⟩
  | .mov _ _ => ⟨"MOV", [(3, 0, 0x0), (15, 12, 0x8)]⟩
  | .or _ _ => ⟨"OR", [(3, 0, 0x1), (15, 12, 0x8)]⟩
  | .and _ _ => ⟨"AND", [(3, 0, 0x2), (15, 12, 0x8)]⟩
  | .xor _ _ => ⟨"XOR", [(3, 0, 0x3), (15, 12, 0x8)]⟩
  | .add _ _ => ⟨"ADD", [(3, 0, 0x4), (15, 12, 0x8)]⟩
  | .sub _ _ => ⟨"SUB", [(3, 0, 0x5), (15, 12, 0x8)]⟩
  | .shr _ _ => ⟨"SHR", [(3, 0, 0x6), (15, 12, 0x8)]⟩
  | .subn _ _ => ⟨"SUBN", [(3, 0, 0x7), (15, 12, 0x8)]⟩
  | .shl _ _ => ⟨"SHL", [(3, 0, 0xE), (15, 12, 0x8)]⟩
  | .sneReg _ _ => ⟨"SNE_REG", [(15, 12, 0x9)]⟩
  | .ldI _ => ⟨"LD_I", [(15, 12, 0xA)]⟩
  | .jpV0 _ => ⟨"JP_V0", [(15, 12, 0xB)]⟩
  | .rnd _ _ => ⟨"RND", [(15, 12, 0xC)]⟩
  | .drw _ _ _ => ⟨"DRW", [(15, 12, 0xD)]⟩
  | .skp _ => ⟨"SKP", [(7, 0, 0x9E), (15, 12, 0xE)]⟩
  | .sknp _ => ⟨"SKNP", [(7, 0, 0xA1), (15, 12, 0xE)]⟩
  | .ldVxDt _ => ⟨"LD_VX_DT", [(7, 0, 0x07), (15, 12, 0xF)]⟩
  | .ldVxK _ => ⟨"LD_VX_K", [(7, 0, 0x0A), (15, 12, 0xF)]⟩
  | .ldDtVx _ => ⟨"LD_DT_VX", [(7, 0, 0x15), (15, 12, 0xF)]⟩
  | .ldStVx _ => ⟨"LD_ST_VX", [(7, 0, 0x18), (15, 12, 0xF)]⟩
  | .addIVx _ => ⟨"ADD_I_VX", [(7, 0, 0x1E), (15, 12, 0xF)]⟩
  | .ldFVx _ => ⟨"LD_F_VX", [(7, 0, 0x29), (15, 12, 0xF)]⟩
  | .ldBVx _ => ⟨"LD_B_VX", [(7, 0, 0x33), (15, 12, 0xF)]⟩
  | .ldMemVx _ => ⟨"LD_MEM_VX", [(7, 0, 0x55), (15, 12, 0xF)]⟩
  | .ldVxMem _ => ⟨"LD_VX_MEM", [(7, 0, 0x65), (15, 12, 0xF)]⟩

/-- The instruction this decoder reads from the table word `w` of `nbits` bits: bit 0 is the least significant bit
of the one 16-bit word, laid out big-endian; the bits above `nbits` are 0. -/
def decodeTableWord (nbits w : Nat) : Option Instr :=
  let op : Word := BitVec.ofNat 16 (w % 2 ^ nbits)
  match decodeBytes [highByte op, lowByte op] with
  | .ok (i, _) => some i
  | .error _ => none

end Sys2Proof
end

