-- ==== Sys2Proof/Config.lean ====
section
/-! DEFINITION. The implementation parameters of spec/00_scope.md R6, and the values the spec leaves open.

R6: "a model states them as fields of its configuration, not as constants of its semantics". `STEPS_PER_TICK`,
`TICK_HZ` and `FONT` are fixed for a machine and are the fields of `Config`, plain data that State carries, so a
statement about every state holds for every value of them. `RAND` and `KEY_PICK` are draws: free values, opaque
functions of the number of the draw. -/

namespace Sys2Proof

/-- The parameters that are fixed for one machine (R6; DESIGN CHOICE, log 17). -/
structure Config where
  /-- `STEPS_PER_TICK`, how many steps a tick runs; a natural number of at least 1 (R6, D27). -/
  stepsPerTick : Nat
  /-- `TICK_HZ`, the rate of the host's periodic timer; "timing only, read by no rule" (R6, D27). -/
  tickHz : Nat
  /-- `FONT`, the 80 bytes of the font table, glyph d at `5*d` (R6, R61, D13). -/
  font : Vector Byte 80
deriving DecidableEq, Repr

/-- FREE VALUE (log 1). The k-th byte of the font table that a machine comes out of reset with. The spec
states no glyph byte (D13, OPEN), so nothing here does. -/
opaque Config.fontByte : Nat → Byte

/-- FREE VALUE (log 2). The byte that the n-th draw gives when it is a CXNN's: "draw RAND", any byte 0..255
(R153, D23). -/
opaque Config.rand : Nat → Byte

/-- FREE VALUE (log 3). The choice that the n-th draw makes when it is an FX0A's: "draw KEY_PICK(S)", some
pressed key (R234, D11). The machine reduces it modulo the number of pressed keys. -/
opaque Config.keyPick : Nat → Nat

/-- The configuration that State.reset carries: the spec's defaults for the tick (R6), and the open font (log 5). -/
def Config.default : Config where
  stepsPerTick := 10
  tickHz := 60
  font := Vector.ofFn (fun k : Fin 80 => Config.fontByte k.val)

/-- The parameters have the types R6 gives them: at least one step a tick, a positive tick rate. -/
def Config.wf (c : Config) : Bool := decide (1 ≤ c.stepsPerTick) && decide (1 ≤ c.tickHz)

end Sys2Proof
end

