-- ==== Sys2Proof/Machine/State.lean ====
section
/-! DEFINITION. The state of the block, all of it (spec/10_state.md R20 to R40), what its ports carry
(spec/60_exceptions.md R330 to R341), and its reset value (R40). Plain data only. -/

namespace Sys2Proof.Machine

/-- `Mem`: the bytes that differ from what an unlisted address reads as (Ops.lean, `unlisted`), addresses
strictly rising (R36, R60; DESIGN CHOICE, log 4). -/
abbrev Memory := List Host.Cell

/-- `Screen`: 32 rows of 64 pixels, each 0 or 1 (R29). `rows[y][x]` is the pixel at column x, row y (DESIGN CHOICE,
log 18). -/
structure Screen where
  rows : Vector (Vector Bool 64) 32
deriving DecidableEq, Repr

/-- The sequencer state (R33). -/
inductive RunState where
  /-- "initial, and reachable via stop()". -/
  | stopped
  /-- "entered via run()". -/
  | running
deriving DecidableEq, Repr

/-- What an access that left the address space was doing (R300, `kind`). -/
inductive AccessKind where
  /-- Instruction fetch. -/
  | fetch
  /-- A data read (DXYN, FX65). -/
  | read
  /-- A data write (FX33, FX55). -/
  | write
deriving DecidableEq, Repr

/-- The fault causes of R300 with their information. The block reports each of them itself and R301 gives the effect
of taking one, so a fault is taken into State (`takeFault`, a next state) and no step of this model ends in the
outcome `Host.Outcome.fault` (DESIGN CHOICE, log 6). Safe: nothing is claimed of a machine that the spec stops
otherwise. -/
inductive Fault where
  /-- Raised by decoding a word of R87, with the word. Safe: the spec's own fatal condition. -/
  | unknownOpcode (op : Word)
  /-- Raised by a fetch, by DXYN, FX33, FX55 and FX65, with the first address at or above 0x1000 and the kind of
  access. Safe: the spec's decision D2. -/
  | memOutOfRange (addr : Nat) (kind : AccessKind)
  /-- Raised by EX9E and EXA1 when VX names no key, with VX. Safe: the spec's decision D10. -/
  | keyIndexOutOfRange (v : Byte)
  /-- Raised by DXYN at the first set sprite bit outside the screen, with the exact coordinates. Safe: the spec's
  decision D8. -/
  | drawOutOfRange (x y : Nat)
deriving DecidableEq, Repr

/-- The fault record `(cause, info)` of R34: the cause with its information, and `pc`, the address of the faulting
instruction (R300). -/
structure FaultRecord where
  cause : Fault
  pc : Word
deriving DecidableEq, Repr

/-- The ten fields that a snapshot holds (R340, C2). -/
structure Snapshot where
  mem : Memory
  v : Vector Byte 16
  i : Word
  pc : Word
  dt : Byte
  st : Byte
  redraw : Bool
  screen : Screen
  stack : Vector Word 16
  sp : Fin 16
deriving DecidableEq, Repr

/-- What the host can do to the block between two ticks: the tick input (R336), the commands (R335), the snapshot
commands (R340, R341), and the writes of the key and quirk input ports (R330, R334). -/
inductive HostInput where
  /-- One tick event (R336). -/
  | tick
  /-- `run()`. -/
  | cmdRun
  /-- `stop()`. -/
  | cmdStop
  /-- The reset command of R400. -/
  | cmdReset
  /-- `loadRom(bytes)` (R401). -/
  | cmdLoadRom (bytes : List Byte)
  /-- `save` into a slot (R340). -/
  | cmdSave (slot : Nat)
  /-- Restore from a slot (R341). -/
  | cmdRestore (slot : Nat)
  /-- The host writes the 16 key inputs (R330). -/
  | setKeys (keys : Vector Bool 16)
  /-- The host writes the two quirk bits (R334). -/
  | setQuirks (loadStore shift : Bool)
deriving DecidableEq, Repr

/-- What the block emits at its output ports. -/
inductive Output where
  /-- `Redraw(Screen)`: the 2048 bytes of the buffer, 0 or 1 each (R331). -/
  | redraw (buffer : List Byte)
  /-- The sound level 1 of R322. -/
  | soundOn
  /-- The sound level 0 of R322. -/
  | soundOff
  /-- The fault report `(code, cause, info)` of R333. -/
  | faultReport (code : Nat) (record : FaultRecord)
  /-- The refusal `RomTooLarge(L)` of a load (R401; DESIGN CHOICE, log 14). -/
  | romTooLarge (length : Nat)
deriving DecidableEq, Repr

/-- Everything the spec gives the machine, and four fields of the model's own (`inputs`, `outputs`, `slots`,
`draws`; log 2, 3, 5, 8, 9, 10). -/
structure State where
  /-- The parameters of R6, fixed for the machine. -/
  cfg : Config
  /-- `V[0]` .. `V[15]` (R20). -/
  v : Vector Byte 16
  /-- The index register `I` (R23). -/
  i : Word
  /-- The program counter `PC` (R22). -/
  pc : Word
  /-- `Stack[0]` .. `Stack[15]` (R24). -/
  stack : Vector Word 16
  /-- `SP`, the next free stack entry, 4 bits (R25). -/
  sp : Fin 16
  /-- The delay timer `DT` (R27). -/
  dt : Byte
  /-- The sound timer `ST` (R28). -/
  st : Byte
  /-- `Screen` (R29). -/
  screen : Screen
  /-- `redraw` (R30). -/
  redraw : Bool
  /-- `Keys[0]` .. `Keys[15]` (R31). -/
  keys : Vector Bool 16
  /-- The quirk bit `loadStore` (R26). -/
  loadStore : Bool
  /-- The quirk bit `shift` (R26). -/
  shift : Bool
  /-- `Mem[0]` .. `Mem[4095]` (R36). -/
  mem : Memory
  /-- `cycleCounter`, completed ticks (R32). -/
  cycleCounter : Nat
  /-- `stepCounter`, completed steps (R32). -/
  stepCounter : Nat
  /-- `run` (R33). -/
  run : RunState
  /-- A `stop()` has stopped the block, and neither `run()` nor a reset has come since: what R403 (c) asks of a run
  that ended so, and what tells it from a block that was never started (DESIGN CHOICE, log 19). -/
  stopIssued : Bool
  /-- `fault` (R34). -/
  fault : Option FaultRecord
  /-- `tickStep`, the position of the next step within its tick (R37); 0 between two ticks. -/
  tickStep : Nat
  /-- What the host will do next, first first; read only between two ticks (R31, R336; log 8). -/
  inputs : List HostInput
  /-- What the block has emitted so far, oldest first (R331 to R333; log 9). -/
  outputs : List Output
  /-- The host's snapshot slots, rising slot numbers, each with one snapshot (R340; log 10). -/
  slots : List (Nat × Snapshot)
  /-- How many draws of RAND and KEY_PICK have been made (log 2, 3). -/
  draws : Nat
deriving DecidableEq, Repr

/-- Why the model gives a move no meaning. None of these is raised by an instruction that has its meaning. -/
inductive Refusal where
  /-- Raised by exec's arm of an instruction that has no meaning yet. Safe. No arm does. -/
  | notModelled (mnemonic : String)
  /-- Raised between two ticks when the host issues, while `run = Running`, a command that it may issue only while
  `run = Stopped` (or `run()` itself): "the model gives such a command no move" (D22, R335; DEDUCED, log 13).
  Safe. -/
  | commandWhileRunning (command : HostInput)
  /-- Raised between two ticks by a restore from a slot that holds no snapshot, which the spec gives no effect
  (R340, R341; log 10). Safe. -/
  | emptySlot (slot : Nat)
deriving DecidableEq, Repr

/-- The outcome of a move of this machine. -/
abbrev Outcome := Host.Outcome State Fault Refusal

/-- A blank screen. -/
def Screen.blank : Screen := ⟨Vector.replicate 32 (Vector.replicate 64 false)⟩

/-- The reset value of every field (R40). The font stands in what an unlisted address reads as, so memory lists
nothing. The four fields of the model's own are empty and 0 (DESIGN CHOICE, log 5), and `stopIssued`, of which R40
has no line, is false (DESIGN CHOICE, log 19). -/
def State.reset : State where
  cfg := Config.default
  v := Vector.replicate 16 0
  i := 0
  pc := 0x200
  stack := Vector.replicate 16 0
  sp := 0
  dt := 0
  st := 0
  screen := Screen.blank
  redraw := false
  keys := Vector.replicate 16 false
  loadStore := false
  shift := false
  mem := []
  cycleCounter := 0
  stepCounter := 0
  run := .stopped
  stopIssued := false
  fault := none
  tickStep := 0
  inputs := []
  outputs := []
  slots := []
  draws := 0

end Sys2Proof.Machine
end

