-- ==== Sys2Proof/Machine/Ops.lean ====
section
/-! DEFINITION. The named operations over memory, registers, the stack, the screen and the fault state: the
primitives of spec/00_scope.md R9, the memory access of spec/20_memory.md R62 and R63, and, as one operation each,
taking a fault (spec/60_exceptions.md R301) and the only way out of one, the reset command (R303, R400). -/

namespace Sys2Proof.Machine

/-! ### Masking -/

/-- `v & 0xFFF` of an exact sum: the masking convention of PC and I (R10). -/
def mask12 (v : Nat) : Word := BitVec.ofNat 16 (v % 0x1000)

/-! ### Memory -/

/-- The number of bytes of the address space (R5, R60). -/
def memSize : Nat := 0x1000

/-- What an address that memory does not list reads as: the reset contents of R36, the font table at 0x000-0x04F
and zero above it. -/
def unlisted (cfg : Config) (a : Nat) : Byte :=
  if h : a < 80 then cfg.font[a] else 0

/-- `Mem[a]`, without a range check. -/
def Memory.byteAt (cfg : Config) : Memory → Nat → Byte
  | [], a => unlisted cfg a
  | (k, b) :: rest, a => if k = a then b else Memory.byteAt cfg rest a

/-- The cell that says `a` holds `b`, or none where an unlisted `a` reads as `b` already. -/
def Memory.cell (cfg : Config) (a : Nat) (b : Byte) : Memory :=
  if b = unlisted cfg a then [] else [(a, b)]

/-- `Mem[a] <- b`, without a range check, keeping the canonical form. -/
def Memory.put (cfg : Config) : Memory → Nat → Byte → Memory
  | [], a, b => Memory.cell cfg a b
  | (k, c) :: rest, a, b =>
    if a < k then Memory.cell cfg a b ++ (k, c) :: rest
    else if a = k then Memory.cell cfg a b ++ rest
    else (k, c) :: Memory.put cfg rest a b

/-- The addresses are strictly rising and all of them at least `lo`, inside the address space, and no cell holds
what its address reads as when it is not listed. -/
def Memory.wfFrom (cfg : Config) : Nat → Memory → Bool
  | _, [] => true
  | lo, (k, b) :: rest =>
    decide (lo ≤ k) && decide (k < memSize) && decide (b ≠ unlisted cfg k) && Memory.wfFrom cfg (k + 1) rest

/-- The canonical form of memory. -/
def Memory.wf (cfg : Config) (m : Memory) : Bool := Memory.wfFrom cfg 0 m

/-- `Mem[a]` in a state, without a range check. -/
def State.byteAt (s : State) (a : Nat) : Byte := Memory.byteAt s.cfg s.mem a

/-- The contents of memory replaced. -/
def State.setMem (s : State) (m : Memory) : State := { s with mem := m }

/-- `MemRead(a, 1)` (R62): no address is reduced modulo 4096 (D2). -/
def memRead (s : State) (kind : AccessKind) (a : Nat) : Except Fault Byte :=
  if memSize ≤ a then .error (.memOutOfRange a kind) else .ok (s.byteAt a)

/-- `MemWrite(a, 1, b)` (R63). -/
def memWrite (s : State) (a : Nat) (b : Byte) : Except Fault State :=
  if memSize ≤ a then .error (.memOutOfRange a .write)
  else .ok (s.setMem (Memory.put s.cfg s.mem a b))

/-- `MemRead` at `a`, `a+1`, ... , `n` bytes in ascending order (R67, R186). -/
def loadBytes (s : State) (a : Nat) : Nat → Except Fault (List Byte)
  | 0 => .ok []
  | n + 1 =>
    match memRead s .read a with
    | .error f => .error f
    | .ok b =>
      match loadBytes s (a + 1) n with
      | .error f => .error f
      | .ok bs => .ok (b :: bs)

/-- `MemWrite` of the bytes at `a`, `a+1`, ... in ascending order (R67, R186). -/
def storeBytes (s : State) (a : Nat) : List Byte → Except Fault State
  | [] => .ok s
  | b :: bs =>
    match memWrite s a b with
    | .error f => .error f
    | .ok t => storeBytes t (a + 1) bs

/-- The bytes copied into memory from `a` on, without a range check: the load port's write (R401). -/
def Memory.putAll (cfg : Config) (m : Memory) (a : Nat) : List Byte → Memory
  | [] => m
  | b :: bs => Memory.putAll cfg (Memory.put cfg m a b) (a + 1) bs

/-! ### Registers -/

/-- The number of the flag register VF (R21). -/
def regF : Reg := 15

/-- `V[x]` (R9, R20). -/
def State.readV (s : State) (x : Reg) : Byte := s.v[x.val]

/-- `V[x] <- b` (R9, R20); no register is hardwired. -/
def State.setV (s : State) (x : Reg) (b : Byte) : State := { s with v := s.v.set x.val b }

/-- `I <- a` (R9, R23). -/
def State.setI (s : State) (a : Word) : State := { s with i := a }

/-- `PC <- a` (R9, R22). -/
def State.setPc (s : State) (a : Word) : State := { s with pc := a }

/-- `DT <- b` (R9, R27). -/
def State.setDt (s : State) (b : Byte) : State := { s with dt := b }

/-- `ST <- b` (R9, R28). -/
def State.setSt (s : State) (b : Byte) : State := { s with st := b }

/-- `PC <- (PC + 2) & 0xFFF` (R91). -/
def State.advancePc (s : State) : State := s.setPc (mask12 (s.pc.toNat + 2))

/-- V0 to VX replaced by the first registers' bytes in the list: `V[k]` becomes the k-th byte where there is one
(R185). -/
def State.setLowV (s : State) (bs : List Byte) : State :=
  { s with v := Vector.ofFn (fun k : Fin 16 => bs.getD k.val s.v[k.val]) }

/-- The bytes of V0 to VX in order (R184). -/
def State.lowV (s : State) (x : Reg) : List Byte := s.v.toList.take (x.val + 1)

/-- The next draw is taken: the counter of the free values moves on (log 2, 3). -/
def State.countDraw (s : State) : State := { s with draws := s.draws + 1 }

/-! ### The return stack -/

/-- `(SP + 1) mod 16` (R114). -/
def spUp (sp : Fin 16) : Fin 16 := ⟨(sp.val + 1) % 16, Nat.mod_lt _ (by decide)⟩

/-- `(SP - 1) mod 16` (R112). -/
def spDown (sp : Fin 16) : Fin 16 := ⟨(sp.val + 15) % 16, Nat.mod_lt _ (by decide)⟩

/-- `Stack[j]` (R9, R24). -/
def State.stackAt (s : State) (j : Fin 16) : Word := s.stack[j.val]

/-- Push a return address: `Stack[SP] <- a`, then `SP <- (SP + 1) mod 16`; no overflow is raised (R114, D4). -/
def State.push (s : State) (a : Word) : State :=
  { s with stack := s.stack.set s.sp.val a, sp := spUp s.sp }

/-- Pop: `SP <- (SP - 1) mod 16`, the entry itself kept; no underflow is raised (R112, D4, D5). The popped address
is `Stack[SP]` at the new SP. -/
def State.pop (s : State) : State := { s with sp := spDown s.sp }

/-! ### The screen -/

/-- `Screen[x, y]`; outside the 64×32 buffer there is no pixel, read here as 0 (R29). -/
def Screen.pixel (scr : Screen) (x y : Nat) : Bool :=
  if h : x < 64 ∧ y < 32 then (scr.rows[y]'h.2)[x]'h.1 else false

/-- `Screen[x, y] <- Screen[x, y] ^ 1` (R211). -/
def Screen.toggle (scr : Screen) (x y : Nat) : Screen :=
  if h : x < 64 ∧ y < 32 then
    ⟨scr.rows.set y ((scr.rows[y]'h.2).set x (!(scr.rows[y]'h.2)[x]'h.1) h.1) h.2⟩
  else scr

/-- The byte of a pixel: 0 or 1 (R29). -/
def pixelByte (b : Bool) : Byte := if b then 1 else 0

/-- The buffer as the redraw port carries it: 2048 bytes, the pixel (x, y) at index `y * 64 + x` (R29, R331, D7). -/
def Screen.bytes (scr : Screen) : List Byte :=
  (List.range 2048).map (fun k => pixelByte (scr.pixel (k % 64) (k / 64)))

/-- The set bits of one sprite row as pixels, column x0 for bit 7 (R211, D7). -/
def rowPixels (x0 y : Nat) (row : Byte) : List (Nat × Nat) :=
  ((List.range 8).filter (fun c => row.getLsbD (7 - c))).map (fun c => (x0 + c, y))

/-- The set bits of a sprite as pixels, rows top to bottom and each row left to right; coordinates are exact,
neither wrapped nor clipped (R211, D8). -/
def spritePixels (x0 y0 : Nat) : List Byte → List (Nat × Nat)
  | [] => []
  | row :: rows => rowPixels x0 y0 row ++ spritePixels x0 (y0 + 1) rows

/-- The drawing loop of R211 over the set sprite bits: the first pixel outside the buffer raises the fault; a set
pixel that is toggled sets `collide`. -/
def drawPixels (scr : Screen) (collide : Bool) : List (Nat × Nat) → Except Fault (Screen × Bool)
  | [] => .ok (scr, collide)
  | (x, y) :: ps =>
    if 64 ≤ x ∨ 32 ≤ y then .error (.drawOutOfRange x y)
    else drawPixels (scr.toggle x y) (collide || scr.pixel x y) ps

/-- The screen written and the redraw flag set (R30, R210, R211). -/
def State.showScreen (s : State) (scr : Screen) : State := { s with screen := scr, redraw := true }

/-! ### Output ports -/

/-- One notification leaves the block (log 9). -/
def State.emit (s : State) (o : Output) : State := { s with outputs := s.outputs ++ [o] }

/-! ### Faults -/

/-- The code of a cause (R300, D16). -/
def Fault.code : Fault → Nat
  | .unknownOpcode _ => 1
  | .memOutOfRange _ _ => 2
  | .keyIndexOutOfRange _ => 3
  | .drawOutOfRange _ _ => 4

/-- TAKING A FAULT (R301), from the state at the start of the step, so that none of the step's writes lands: `fault <-
(cause, info)` with the address of the faulting instruction, `run <- Stopped`, the tick ends at once without its timer
decay, sound or `cycleCounter` increment, and the fault report is emitted (R333). `tickStep` is 0 then (DEDUCED, log
7). PC keeps the address of the faulting instruction. -/
def takeFault (f : Fault) (s : State) : State :=
  { s with
    fault := some ⟨f, s.pc⟩
    run := .stopped
    tickStep := 0
    outputs := s.outputs ++ [.faultReport f.code ⟨f, s.pc⟩] }

/-- All the writes of an instruction land, or none of them and the fault it raised is taken (R301). -/
def landOrFault (s : State) : Except Fault State → State
  | .ok t => t
  | .error f => takeFault f s

/-- How a meaning that may raise a fault ends: in a next state either way (R301). -/
def commitOrFault (s : State) (r : Except Fault State) : Outcome := .next (landOrFault s r)

/-- THE WAY OUT OF A FAULT, and the block's reset (R303, R400): every field of R40 takes its reset value. The
parameters stay, and so do the fields that are no state of the block: what the host sent, received and saved, and
the counter of draws. -/
def resetBlock (s : State) : State :=
  { State.reset with
    cfg := s.cfg
    inputs := s.inputs
    outputs := s.outputs
    slots := s.slots
    draws := s.draws }

end Sys2Proof.Machine
end

