-- ==== Sys2Proof/Machine/Flags.lean ====
section
/-! DEFINITION. The flag computations of the ALU and the write of VF, the block's only flag (spec/10_state.md R21,
spec/41_alu.md R140, R141). Operands are turned into exact numbers, the result is narrowed at the end, and the flag
is a comparison of the exact values. -/

namespace Sys2Proof.Machine

/-- The value of a flag as a byte: 1 or 0. -/
def flagByte (b : Bool) : Byte := if b then 1 else 0

/-- The carry of ADD: the exact sum exceeds 0xFF (R148). -/
def carryOut (a b : Byte) : Bool := decide (a.toNat + b.toNat > 0xFF)

/-- The NOT-borrow of `a - b`: 1 when `a >= b`, equality included (R149, R151). -/
def notBorrow (a b : Byte) : Bool := decide (a.toNat ≥ b.toNat)

/-- The bit that a shift right by one shifts out: bit 0 (R150). -/
def shiftedOutRight (src : Byte) : Bool := decide (src.toNat % 2 = 1)

/-- The bit that a shift left by one shifts out: bit 7 (R152). -/
def shiftedOutLeft (src : Byte) : Bool := decide (src.toNat / 128 = 1)

/-- `(a + b) mod 256` (R140). -/
def addBytes (a b : Byte) : Byte := BitVec.ofNat 8 ((a.toNat + b.toNat) % 256)

/-- `(a - b) mod 256` (R140). -/
def subBytes (a b : Byte) : Byte := BitVec.ofNat 8 ((a.toNat + 256 - b.toNat) % 256)

/-- `src >> 1`, filled with 0 (R150). -/
def shiftRight1 (src : Byte) : Byte := BitVec.ofNat 8 (src.toNat / 2)

/-- `(src << 1) & 0xFF`, filled with 0 (R152). -/
def shiftLeft1 (src : Byte) : Byte := BitVec.ofNat 8 (src.toNat * 2 % 256)

/-- `V[0xF] <- flag` (R21). -/
def State.setFlag (s : State) (b : Bool) : State := s.setV regF (flagByte b)

/-- The write order of R141: the main result first, the flag last, so that with X = F the flag stays (D6). -/
def State.setResultFlag (s : State) (x : Reg) (result : Byte) (flag : Bool) : State :=
  (s.setV x result).setFlag flag

end Sys2Proof.Machine
end

