-- ==== Sys2Proof/Machine/Operands.lean ====
section
/-! DEFINITION. The operand forms that are more than a register or an immediate: the quirk-controlled shift source
and index update, the skip form, the key index, the set of pressed keys and the choice from it, the decimal digits,
and the data address (spec/40_control.md R111, spec/41_alu.md R150, spec/42_index_memory.md R183 to R186,
spec/44_keys_timers.md R230, R234). -/

namespace Sys2Proof.Machine

/-- The register a shift reads: VY, or VX when the `shift` quirk is 1 (R26, R150, R152). -/
def shiftSource (s : State) (x y : Reg) : Byte := if s.shift then s.readV x else s.readV y

/-- The index register after FX55 and FX65: `(I + X + 1) & 0xFFF`, or unmodified when the `loadStore` quirk is 1
(R26, R184, R185, C5). -/
def State.bumpI (s : State) (x : Reg) : State :=
  if s.loadStore then s else s.setI (mask12 (s.i.toNat + x.val + 1))

/-- The base of every data address `I + k`, as an exact number: the sum is not reduced modulo 4096 (R186). -/
def State.dataBase (s : State) : Nat := s.i.toNat

/-- `Skip(cond)` (R111): always +2, plus an extra +2 on a match, each advance masked. -/
def State.skipIf (s : State) (cond : Bool) : State :=
  if cond then s.advancePc.advancePc else s.advancePc

/-- `KeyAt(v)` (R230): a value of 16 or more names no key (D10). -/
def keyAt (s : State) (b : Byte) : Except Fault Bool :=
  if h : b.toNat < 16 then .ok (s.keys[b.toNat]'h) else .error (.keyIndexOutOfRange b)

/-- The set S of R234: the pressed keys, in rising order. -/
def pressedKeys (s : State) : List Reg := (List.finRange 16).filter (fun k => s.keys[k.val])

/-- `draw KEY_PICK(S)` (R6, R234): none when no key is pressed; the pressed key when there is one; any of them, by
the free value of the n-th draw, when there are several (D11, log 3). -/
def pickKey (n : Nat) : List Reg → Option Reg
  | [] => none
  | [k] => some k
  | k :: k' :: ks => some ((k :: k' :: ks).getD (Config.keyPick n % (ks.length + 2)) k)

/-- The three decimal digits of a byte, hundreds first (R183, D12). -/
def decimalDigits (b : Byte) : List Byte :=
  [BitVec.ofNat 8 (b.toNat / 100), BitVec.ofNat 8 (b.toNat / 10 % 10), BitVec.ofNat 8 (b.toNat % 10)]

/-- `V[X] * 5`, the address of the font glyph (R182); at most 0x4FB, so it needs no mask. -/
def glyphAddress (b : Byte) : Word := BitVec.ofNat 16 (b.toNat * 5)

/-- `r & NN` of a drawn byte (R153), the draw the next one of the state (D23, log 2). -/
def drawnByte (s : State) (nn : Byte) : Byte := Config.rand s.draws &&& nn

end Sys2Proof.Machine
end

