-- ==== Sys2Proof/Machine/Alu.lean ====
section
/-! DEFINITION. The register loads, the 8XYN family and the random byte (spec/41_alu.md R142 to R153). Operands are
read from the state at the start of the instruction (R141). -/

namespace Sys2Proof.Machine

/-- `6XNN` LD VX, NN (R142). -/
def execLdImm (x : Reg) (nn : Byte) (s : State) : Outcome := .next (s.setV x nn).advancePc

/-- `7XNN` ADD VX, NN (R143): the carry is discarded. -/
def execAddImm (x : Reg) (nn : Byte) (s : State) : Outcome :=
  .next (s.setV x (addBytes (s.readV x) nn)).advancePc

/-- `8XY0` MOV (R144). -/
def execMov (x y : Reg) (s : State) : Outcome := .next (s.setV x (s.readV y)).advancePc

/-- `8XY1` OR (R145): VF is not reset. -/
def execOr (x y : Reg) (s : State) : Outcome := .next (s.setV x (s.readV x ||| s.readV y)).advancePc

/-- `8XY2` AND (R146): VF is not reset. -/
def execAnd (x y : Reg) (s : State) : Outcome := .next (s.setV x (s.readV x &&& s.readV y)).advancePc

/-- `8XY3` XOR (R147): VF is not reset. -/
def execXor (x y : Reg) (s : State) : Outcome := .next (s.setV x (s.readV x ^^^ s.readV y)).advancePc

/-- `8XY4` ADD (R148). -/
def execAdd (x y : Reg) (s : State) : Outcome :=
  .next (s.setResultFlag x (addBytes (s.readV x) (s.readV y)) (carryOut (s.readV x) (s.readV y))).advancePc

/-- `8XY5` SUB (R149): VX minus VY. -/
def execSub (x y : Reg) (s : State) : Outcome :=
  .next (s.setResultFlag x (subBytes (s.readV x) (s.readV y)) (notBorrow (s.readV x) (s.readV y))).advancePc

/-- `8XY6` SHR (R150). -/
def execShr (x y : Reg) (s : State) : Outcome :=
  .next (s.setResultFlag x (shiftRight1 (shiftSource s x y)) (shiftedOutRight (shiftSource s x y))).advancePc

/-- `8XY7` SUBN (R151): VY minus VX. -/
def execSubn (x y : Reg) (s : State) : Outcome :=
  .next (s.setResultFlag x (subBytes (s.readV y) (s.readV x)) (notBorrow (s.readV y) (s.readV x))).advancePc

/-- `8XYE` SHL (R152). -/
def execShl (x y : Reg) (s : State) : Outcome :=
  .next (s.setResultFlag x (shiftLeft1 (shiftSource s x y)) (shiftedOutLeft (shiftSource s x y))).advancePc

/-- `CXNN` RND VX, NN (R153). -/
def execRnd (x : Reg) (nn : Byte) (s : State) : Outcome :=
  .next (s.countDraw.setV x (drawnByte s nn)).advancePc

end Sys2Proof.Machine
end

