-- ==== Sys2Proof/Machine/Control.lean ====
section
/-! DEFINITION. The control-transfer instructions (spec/40_control.md R112 to R119). PC holds the address of the
instruction when a meaning starts. -/

namespace Sys2Proof.Machine

/-- `00EE` RET (R112): pop, then PC is the popped value plus 2. -/
def execRet (s : State) : Outcome :=
  .next (s.pop.setPc (mask12 ((s.stackAt (spDown s.sp)).toNat + 2)))

/-- `1NNN` JP (R113): no +2 advance. -/
def execJp (nnn : Word) (s : State) : Outcome := .next (s.setPc nnn)

/-- `2NNN` CALL (R114): the address of this CALL is pushed. -/
def execCall (nnn : Word) (s : State) : Outcome := .next ((s.push s.pc).setPc nnn)

/-- `3XNN` SE VX, NN (R115). -/
def execSeImm (x : Reg) (nn : Byte) (s : State) : Outcome := .next (s.skipIf (s.readV x == nn))

/-- `4XNN` SNE VX, NN (R116). -/
def execSneImm (x : Reg) (nn : Byte) (s : State) : Outcome := .next (s.skipIf (s.readV x != nn))

/-- `5XY0` SE VX, VY (R117). -/
def execSeReg (x y : Reg) (s : State) : Outcome := .next (s.skipIf (s.readV x == s.readV y))

/-- `9XY0` SNE VX, VY (R118). -/
def execSneReg (x y : Reg) (s : State) : Outcome := .next (s.skipIf (s.readV x != s.readV y))

/-- `BNNN` JP V0, NNN (R119): always V0, the sum masked to 12 bits. -/
def execJpV0 (nnn : Word) (s : State) : Outcome :=
  .next (s.setPc (mask12 (nnn.toNat + (s.readV 0).toNat)))

end Sys2Proof.Machine
end

