-- ==== Sys2Proof/Machine/Display.lean ====
section
/-! DEFINITION. The screen buffer instructions (spec/43_display.md R210, R211). -/

namespace Sys2Proof.Machine

/-- `00E0` CLS (R210). -/
def execCls (s : State) : Outcome := .next (s.showScreen Screen.blank).advancePc

/-- The drawing of R211 once the sprite's rows are read: the pixels, then VF, then redraw, then PC. -/
def drawSprite (x y : Reg) (s : State) (rows : List Byte) : Except Fault State :=
  (drawPixels s.screen false (spritePixels (s.readV x).toNat (s.readV y).toNat rows)).map
    (fun r => ((s.showScreen r.1).setFlag r.2).advancePc)

/-- `DXYN` DRW VX, VY, N (R211): every sprite byte is read before any pixel is drawn. -/
def execDrw (x y : Reg) (n : Nat) (s : State) : Outcome :=
  commitOrFault s ((loadBytes s s.dataBase n).bind (drawSprite x y s))

end Sys2Proof.Machine
end

