-- ==== Sys2Proof/Machine/IndexMemory.lean ====
section
/-! DEFINITION. The index register and the instructions that move bytes between registers and memory
(spec/42_index_memory.md R180 to R185). -/

namespace Sys2Proof.Machine

/-- `ANNN` LD I, NNN (R180). -/
def execLdI (nnn : Word) (s : State) : Outcome := .next (s.setI nnn).advancePc

/-- `FX1E` ADD I, VX (R181): masked to 12 bits, VF unaffected. -/
def execAddIVx (x : Reg) (s : State) : Outcome :=
  .next (s.setI (mask12 (s.i.toNat + (s.readV x).toNat))).advancePc

/-- `FX29` LD F, VX (R182): the whole of VX is used. -/
def execLdFVx (x : Reg) (s : State) : Outcome := .next (s.setI (glyphAddress (s.readV x))).advancePc

/-- `FX33` LD B, VX (R183). -/
def execLdBVx (x : Reg) (s : State) : Outcome :=
  commitOrFault s ((storeBytes s s.dataBase (decimalDigits (s.readV x))).map State.advancePc)

/-- `FX55` LD [I], VX (R184). -/
def execLdMemVx (x : Reg) (s : State) : Outcome :=
  commitOrFault s ((storeBytes s s.dataBase (s.lowV x)).map (fun t => (t.bumpI x).advancePc))

/-- `FX65` LD VX, [I] (R185). -/
def execLdVxMem (x : Reg) (s : State) : Outcome :=
  commitOrFault s ((loadBytes s s.dataBase (x.val + 1)).map (fun bs => ((s.setLowV bs).bumpI x).advancePc))

end Sys2Proof.Machine
end

