-- ==== Sys2Proof/Machine/KeysTimers.lean ====
section
/-! DEFINITION. The key and timer instructions (spec/44_keys_timers.md R230 to R236). -/

namespace Sys2Proof.Machine

/-- `EX9E` SKP VX (R231). -/
def execSkp (x : Reg) (s : State) : Outcome :=
  commitOrFault s ((keyAt s (s.readV x)).map (fun pressed => s.skipIf pressed))

/-- `EXA1` SKNP VX (R232). -/
def execSknp (x : Reg) (s : State) : Outcome :=
  commitOrFault s ((keyAt s (s.readV x)).map (fun pressed => s.skipIf (!pressed)))

/-- `FX07` LD VX, DT (R233). -/
def execLdVxDt (x : Reg) (s : State) : Outcome := .next (s.setV x s.dt).advancePc

/-- `FX0A` LD VX, K (R234): a busy-poll; with no key pressed nothing is written and PC does not advance. -/
def execLdVxK (x : Reg) (s : State) : Outcome :=
  match pickKey s.draws (pressedKeys s) with
  | none => .next s
  | some k => .next (s.countDraw.setV x (BitVec.ofNat 8 k.val)).advancePc

/-- `FX15` LD DT, VX (R235). -/
def execLdDtVx (x : Reg) (s : State) : Outcome := .next (s.setDt (s.readV x)).advancePc

/-- `FX18` LD ST, VX (R236). -/
def execLdStVx (x : Reg) (s : State) : Outcome := .next (s.setSt (s.readV x)).advancePc

end Sys2Proof.Machine
end

