-- ==== Sys2Proof/Machine/HostPort.lean ====
section
/-! DEFINITION. The host's ports between two ticks: commands, key and quirk inputs, and the snapshot port
(spec/60_exceptions.md R330, R334 to R341; spec/70_reset_and_hazards.md R400, R401). -/

namespace Sys2Proof.Machine

/-- The address the load port writes from (R61, R401). -/
def programBase : Nat := 0x200

/-- `loadRom(bytes)` (R401): refused, with no state change, when the bytes do not fit (DESIGN CHOICE,
log 14); else copied from 0x200. -/
def loadRom (bytes : List Byte) (s : State) : State :=
  if bytes.length + programBase > memSize then s.emit (.romTooLarge bytes.length)
  else s.setMem (Memory.putAll s.cfg s.mem programBase bytes)

/-- `save(state)` (R340): copies of the ten fields of the persisted layout (C2). -/
def State.snapshot (s : State) : Snapshot where
  mem := s.mem
  v := s.v
  i := s.i
  pc := s.pc
  dt := s.dt
  st := s.st
  redraw := s.redraw
  screen := s.screen
  stack := s.stack
  sp := s.sp

/-- Restore (R341): the ten fields take the snapshot's values; keys, quirks, fault, run and the counters stay. -/
def State.restoreFrom (s : State) (p : Snapshot) : State :=
  { s with
    mem := p.mem
    v := p.v
    i := p.i
    pc := p.pc
    dt := p.dt
    st := p.st
    redraw := p.redraw
    screen := p.screen
    stack := p.stack
    sp := p.sp }

/-- Save into a slot, in place of what it held: each slot holds at most one snapshot (R340). -/
def putSlot : List (Nat × Snapshot) → Nat → Snapshot → List (Nat × Snapshot)
  | [], n, p => [(n, p)]
  | (k, q) :: rest, n, p =>
    if n < k then (n, p) :: (k, q) :: rest
    else if n = k then (n, p) :: rest
    else (k, q) :: putSlot rest n p

/-- The snapshot of a slot. -/
def findSlot : List (Nat × Snapshot) → Nat → Option Snapshot
  | [], _ => none
  | (k, q) :: rest, n => if k = n then some q else findSlot rest n

/-- The slot numbers are strictly rising and at least `lo`. -/
def slotsRising : Nat → List (Nat × Snapshot) → Bool
  | _, [] => true
  | lo, (k, _) :: rest => decide (lo ≤ k) && slotsRising (k + 1) rest

/-- A command that the host may issue only while `run = Stopped` (R335, D22; DEDUCED, log 13). -/
def whileStopped (command : HostInput) (s : State) (effect : Outcome) : Outcome :=
  match s.run with
  | .running => .refused (.commandWhileRunning command)
  | .stopped => effect

/-- `run()` on a stopped block (R335): Running, at step position 0 of a tick (D14), and no `stop()` has come since.
It is written with a fault set too (DEDUCED, log 12), and no step follows then (R303). -/
def startBlock (s : State) : State := { s with run := .running, stopIssued := false, tickStep := 0 }

/-- `stop()` at a tick boundary (R335): the Running block is Stopped, which R403 (c) counts as the end of its run; an
already stopped block stays as it is ("no-op"; log 19). -/
def stopBlock (s : State) : State :=
  match s.run with
  | .running => { s with run := .stopped, stopIssued := true }
  | .stopped => s

/-- What one host input does between two ticks. A tick event that reaches this operation finds the sequencer stopped
or faulted, and nothing happens (R320, R303). -/
def hostInput (input : HostInput) (s : State) : Outcome :=
  match input with
  | .tick => .next s
  | .cmdRun => whileStopped input s (.next (startBlock s))
  | .cmdStop => .next (stopBlock s)
  | .cmdReset => whileStopped input s (.next (resetBlock s))
  | .cmdLoadRom bytes => whileStopped input s (.next (loadRom bytes s))
  | .cmdSave slot => .next { s with slots := putSlot s.slots slot s.snapshot }
  | .cmdRestore slot =>
    whileStopped input s
      (match findSlot s.slots slot with
       | some p => .next (s.restoreFrom p)
       | none => .refused (.emptySlot slot))
  | .setKeys keys => .next { s with keys := keys }
  | .setQuirks loadStore shift => .next { s with loadStore := loadStore, shift := shift }

end Sys2Proof.Machine
end

