-- ==== Sys2Proof/Machine/Sequencer.lean ====
section
/-! DEFINITION. Instruction fetch (spec/20_memory.md R64), the end of a step (spec/30_encoding.md R90), the tick
sequencer and the timer countdown (spec/60_exceptions.md R320 to R323). -/

namespace Sys2Proof.Machine

/-- `Fetch()` (R64): the big-endian word at PC; a fault carries the kind `fetch`. -/
def fetch (s : State) : Except Fault Word :=
  match memRead s .fetch s.pc.toNat with
  | .error f => .error f
  | .ok hi =>
    match memRead s .fetch (s.pc.toNat + 1) with
    | .error f => .error f
    | .ok lo => .ok (wordOfBytes hi lo)

/-- One countdown: down by one, floor at 0 (R321). -/
def countDown (b : Byte) : Byte := BitVec.ofNat 8 (b.toNat - 1)

/-- The sound level of R322. -/
def soundLevel (st : Byte) : Output := if st = 0 then .soundOff else .soundOn

/-- The end of a tick (R320): both timers count down, then one sound notification by the new ST, then
`cycleCounter` (R321 to R323). -/
def endTick (s : State) : State :=
  { s with
    tickStep := 0
    dt := countDown s.dt
    st := countDown s.st
    outputs := s.outputs ++ [soundLevel (countDown s.st)]
    cycleCounter := s.cycleCounter + 1 }

/-- The redraw notification at the end of a step that leaves `redraw = 1` (R90, R331). -/
def flushRedraw (s : State) : State :=
  if s.redraw then { s with redraw := false, outputs := s.outputs ++ [.redraw s.screen.bytes] } else s

/-- The move to the next step of the tick, or the end of the tick after its last step (R320). -/
def nextInTick (s : State) : State :=
  if s.tickStep + 1 < s.cfg.stepsPerTick then { s with tickStep := s.tickStep + 1 } else endTick s

/-- What follows an instruction that raised no fault (R90, R320): `stepCounter`, the redraw check, and the tick. -/
def endStep (s : State) : State :=
  nextInTick (flushRedraw { s with stepCounter := s.stepCounter + 1 })

/-- The block takes steps: "While `run = Running` and `fault = none`" (R320, R303). -/
def State.active (s : State) : Bool := decide (s.run = .running) && s.fault.isNone

/-- The state in which the next step of the instruction stream runs, where the next move is one. Inside a tick it
is the state itself: the host is not read (R31, R304). Between two ticks a tick event starts the next tick; it is
taken from the inputs, and once the inputs are used up the periodic timer goes on sending it (R336, log 8). -/
def stepStart (s : State) : Option State :=
  if s.active then
    if s.tickStep = 0 then
      match s.inputs with
      | [] => some s
      | .tick :: rest => some { s with inputs := rest }
      | _ :: _ => none
    else some s
  else none

/-- A move that is no step of the instruction stream: the next host input takes effect, or, with none there, a
stopped or faulted block stays as it is (R320). -/
def hostMove (s : State) : Outcome :=
  match s.inputs with
  | [] => .next s
  | input :: rest => hostInput input { s with inputs := rest }

end Sys2Proof.Machine
end

