-- ==== Sys2Proof/Machine/Cycle.lean ====
section
/-! DEFINITION. `Step()` of spec/30_encoding.md R90: fetch, decode, dispatch, execute, and the end of the step. -/

namespace Sys2Proof.Machine

/-- What follows an executed instruction: after a fault nothing more (R90, R301), else the end of the step. -/
def finish (t : State) : State := if t.fault.isSome then t else endStep t

/-- `finish` on an outcome. -/
def finishOutcome : Outcome → Outcome
  | .next t => .next (finish t)
  | .fault f => .fault f
  | .refused r => .refused r

/-- The fault that a rejected word raises (R87). -/
def rejectFault (op : Word) : Reject → Fault
  | .unknownOpcode w => .unknownOpcode w
  | .truncated => .unknownOpcode op

/-- Decode and execute a fetched word (R90); a word of R87 raises UnknownOpcode before any state changes. -/
def runWord (op : Word) (s : State) : Outcome :=
  match decode op with
  | .error e => .next (takeFault (rejectFault op e) s)
  | .ok i => finishOutcome (exec i s)

/-- `Step()` (R90), at most one fault, the fetch's before the decoder's before the instruction's (R302). -/
def instructionStep (s : State) : Outcome :=
  match fetch s with
  | .error f => .next (takeFault f s)
  | .ok op => runWord op s

/-- One move of the block. -/
def move (s : State) : Outcome :=
  match stepStart s with
  | some s0 => instructionStep s0
  | none => hostMove s

/-- The two bytes of a word stored at PC, high byte first. -/
def storeWordAtPc (s : State) (op : Word) : State :=
  s.setMem (Memory.put s.cfg (Memory.put s.cfg s.mem s.pc.toNat (highByte op)) (s.pc.toNat + 1) (lowByte op))

/-- Makes the very next move run the word `op`: the block is Running and not faulted, no host input comes first,
PC is an address an instruction can be fetched from (it stays, unless the fetch would leave the address space), and
the word stands there (log 11). -/
def placeWord (s : State) (op : Word) : State :=
  storeWordAtPc
    { s with
      run := .running
      stopIssued := false
      fault := none
      inputs := if s.tickStep = 0 then [] else s.inputs
      pc := if s.pc.toNat < 0xFFF then s.pc else 0x200 }
    op

end Sys2Proof.Machine
end

