-- ==== Sys2Proof/Machine/Step.lean ====
section
/-! DEFINITION. The step function of the machine, and the placing of a word where it fetches next. -/

namespace Sys2Proof.Machine

/-- One step: one instruction of the stream with what ends its step and its tick (R90, R320), or, between two
ticks, one host input (R335). -/
def step (s : State) : Host.Outcome State Fault Refusal := move s

/-- `s` with the table word `w` of `nbits` bits where the next step fetches, and with all that this step needs to
run (log 11). -/
def State.withFetchWord (s : State) (nbits w : Nat) : State := placeWord s (BitVec.ofNat 16 (w % 2 ^ nbits))

end Sys2Proof.Machine
end

