-- ==== Sys2Proof/Safety.lean ====
section
/-! DEFINITION. What counts as a legal state, a safe run and the end of a run (spec/10_state.md R39,
spec/70_reset_and_hazards.md R403), and the vocabulary of frames: which part of the state a move keeps, and which
parts an instruction may write. -/

namespace Sys2Proof.Machine

/-! ### The legal values of R39 -/

/-- The fields of a snapshot are legal (R39, R341): a copy of a state that was. -/
structure Snapshot.Legal (cfg : Config) (p : Snapshot) : Prop where
  indexRange : p.i.toNat < 0x1000
  pcRange : p.pc.toNat < 0x1000
  stackRange : ∀ j : Fin 16, p.stack[j.val].toNat < 0x1000
  memory : Memory.wf cfg p.mem = true
  redrawClear : p.redraw = false

/-- The legal-value invariant of R39, with what R30, R37 and R320 add to it: `redraw` is 0 between any two steps,
`tickStep` lies in `[0, STEPS_PER_TICK)`, and only a running block is inside a tick, and a recorded `stop()` belongs
to a stopped block (log 19); and with the canonical form of what the model holds as lists. `V`, `SP`, `DT`, `ST`,
`Screen` and `Keys` are legal by their types. -/
structure State.Inv (s : State) : Prop where
  config : s.cfg.wf = true
  indexRange : s.i.toNat < 0x1000
  pcRange : s.pc.toNat < 0x1000
  stackRange : ∀ j : Fin 16, (s.stackAt j).toNat < 0x1000
  memory : Memory.wf s.cfg s.mem = true
  redrawClear : s.redraw = false
  tickRange : s.tickStep < s.cfg.stepsPerTick
  insideTick : s.tickStep ≠ 0 → s.active = true
  stopRecorded : s.stopIssued = true → s.run = .stopped
  slotsInOrder : slotsRising 0 s.slots = true
  slotsLegal : ∀ e ∈ s.slots, e.2.Legal s.cfg

/-! ### Frames -/

/-- The parts of the state, one for each field. -/
inductive Part where
  | cfg | regs | index | pc | stack | sp | dt | st | screen | redraw | keys | loadStore | shift | mem
  | cycleCounter | stepCounter | run | stopIssued | fault | tickStep | inputs | outputs | slots | draws
deriving DecidableEq, Repr

/-- `t` has the part as `s` has it; of registers, stack, screen and memory every single cell, memory through the
model's read of one byte. -/
def Keeps (s t : State) : Part → Prop
  | .cfg => t.cfg = s.cfg
  | .regs => ∀ r, t.readV r = s.readV r
  | .index => t.i = s.i
  | .pc => t.pc = s.pc
  | .stack => ∀ j, t.stackAt j = s.stackAt j
  | .sp => t.sp = s.sp
  | .dt => t.dt = s.dt
  | .st => t.st = s.st
  | .screen => ∀ x y, t.screen.pixel x y = s.screen.pixel x y
  | .redraw => t.redraw = s.redraw
  | .keys => t.keys = s.keys
  | .loadStore => t.loadStore = s.loadStore
  | .shift => t.shift = s.shift
  | .mem => ∀ a, t.byteAt a = s.byteAt a
  | .cycleCounter => t.cycleCounter = s.cycleCounter
  | .stepCounter => t.stepCounter = s.stepCounter
  | .run => t.run = s.run
  | .stopIssued => t.stopIssued = s.stopIssued
  | .fault => t.fault = s.fault
  | .tickStep => t.tickStep = s.tickStep
  | .inputs => t.inputs = s.inputs
  | .outputs => t.outputs = s.outputs
  | .slots => t.slots = s.slots
  | .draws => t.draws = s.draws

/-- Every part but the listed ones is as before. -/
def KeepsAllBut (changed : List Part) (s t : State) : Prop := ∀ p, p ∉ changed → Keeps s t p

/-- Every general register but the listed ones is as before. -/
def KeepsRegsBut (changed : List Reg) (s t : State) : Prop := ∀ r, r ∉ changed → t.readV r = s.readV r

/-- Every byte of memory outside `[a, a + n)` is as before. -/
def KeepsBytesOutside (a n : Nat) (s t : State) : Prop :=
  ∀ b, (b < a ∨ a + n ≤ b) → t.byteAt b = s.byteAt b

/-- PC has advanced by `n`, masked to 12 bits (R91, R111). -/
def PcAdvancedBy (n : Nat) (s t : State) : Prop := t.pc.toNat = (s.pc.toNat + n) % 0x1000

/-! ### What an instruction may write -/

/-- The general registers an instruction names as its destination (R20); FX65 names V0 to VX. -/
def instrDests : Instr → List Reg
  | .cls => []
  | .ret => []
  | .jp _ => []
  | .call _ => []
  | .seImm _ _ => []
  | .sneImm _ _ => []
  | .seReg _ _ => []
  | .ldImm x _ => [x]
  | .addImm x _ => [x]
  | .mov x _ => [x]
  | .or x _ => [x]
  | .and x _ => [x]
  | .xor x _ => [x]
  | .add x _ => [x]
  | .sub x _ => [x]
  | .shr x _ => [x]
  | .subn x _ => [x]
  | .shl x _ => [x]
  | .sneReg _ _ => []
  | .ldI _ => []
  | .jpV0 _ => []
  | .rnd x _ => [x]
  | .drw _ _ _ => []
  | .skp _ => []
  | .sknp _ => []
  | .ldVxDt x => [x]
  | .ldVxK x => [x]
  | .ldDtVx _ => []
  | .ldStVx _ => []
  | .addIVx _ => []
  | .ldFVx _ => []
  | .ldBVx _ => []
  | .ldMemVx _ => []
  | .ldVxMem x => (List.finRange 16).filter (fun k => decide (k ≤ x))

/-- The instructions that write VF as their flag (R21). -/
def instrWritesFlag : Instr → Bool
  | .add _ _ => true
  | .sub _ _ => true
  | .shr _ _ => true
  | .subn _ _ => true
  | .shl _ _ => true
  | .drw _ _ _ => true
  | .cls | .ret | .jp _ | .call _ | .seImm _ _ | .sneImm _ _ | .seReg _ _ | .ldImm _ _ | .addImm _ _ | .mov _ _ => false
  | .or _ _ | .and _ _ | .xor _ _ | .sneReg _ _ | .ldI _ | .jpV0 _ | .rnd _ _ | .skp _ | .sknp _ | .ldVxDt _ => false
  | .ldVxK _ | .ldDtVx _ | .ldStVx _ | .addIVx _ | .ldFVx _ | .ldBVx _ | .ldMemVx _ | .ldVxMem _ => false

/-- The parts of the state an instruction may write beside PC (R20 to R32). -/
def instrWrites : Instr → List Part
  | .cls => [.screen, .redraw]
  | .ret => [.sp]
  | .jp _ => []
  | .call _ => [.stack, .sp]
  | .seImm _ _ => []
  | .sneImm _ _ => []
  | .seReg _ _ => []
  | .ldImm _ _ => [.regs]
  | .addImm _ _ => [.regs]
  | .mov _ _ => [.regs]
  | .or _ _ => [.regs]
  | .and _ _ => [.regs]
  | .xor _ _ => [.regs]
  | .add _ _ => [.regs]
  | .sub _ _ => [.regs]
  | .shr _ _ => [.regs]
  | .subn _ _ => [.regs]
  | .shl _ _ => [.regs]
  | .sneReg _ _ => []
  | .ldI _ => [.index]
  | .jpV0 _ => []
  | .rnd _ _ => [.regs, .draws]
  | .drw _ _ _ => [.screen, .redraw, .regs]
  | .skp _ => []
  | .sknp _ => []
  | .ldVxDt _ => [.regs]
  | .ldVxK _ => [.regs, .draws]
  | .ldDtVx _ => [.dt]
  | .ldStVx _ => [.st]
  | .addIVx _ => [.index]
  | .ldFVx _ => [.index]
  | .ldBVx _ => [.mem]
  | .ldMemVx _ => [.mem, .index]
  | .ldVxMem _ => [.regs, .index]

/-- How many bytes an instruction stores from `I` on (R67). -/
def instrStoredBytes : Instr → Nat
  | .ldBVx _ => 3
  | .ldMemVx x => x.val + 1
  | .cls | .ret | .jp _ | .call _ | .seImm _ _ | .sneImm _ _ | .seReg _ _ | .ldImm _ _ | .addImm _ _ | .mov _ _ => 0
  | .or _ _ | .and _ _ | .xor _ _ | .add _ _ | .sub _ _ | .shr _ _ | .subn _ _ | .shl _ _ | .sneReg _ _ => 0
  | .ldI _ | .jpV0 _ | .rnd _ _ | .drw _ _ _ | .skp _ | .sknp _ | .ldVxDt _ | .ldVxK _ | .ldDtVx _ | .ldStVx _ => 0
  | .addIVx _ | .ldFVx _ | .ldVxMem _ => 0

/-! ### Steps and runs -/

/-- The next move of `s` is a step of the instruction stream, and it runs in `s0`: the block is Running and not
faulted, and either it is inside a tick, or no host input stands there, or a tick event does, which is taken
(R320, R336; log 8). -/
def StepStartsAt (s s0 : State) : Prop :=
  s.active = true ∧
    (((s.tickStep ≠ 0 ∨ s.inputs = []) ∧ s0 = s) ∨
      (s.tickStep = 0 ∧ ∃ rest, s.inputs = .tick :: rest ∧ s0 = { s with inputs := rest }))

/-- Instructions executed one after another. -/
def execAll : List Instr → State → Outcome
  | [], s => .next s
  | i :: is, s =>
    match exec i s with
    | .next t => execAll is t
    | .fault f => .fault f
    | .refused r => .refused r

/-! ### The sprite of DXYN -/

/-- The sprite of `n` rows at `a` with its top left corner at `(x0, y0)` has a set bit on the pixel `(px, py)`:
bit 7 of a row is the leftmost column (R211, D7). -/
def spriteCovers (s : State) (a x0 y0 n px py : Nat) : Prop :=
  ∃ r c, r < n ∧ c < 8 ∧ px = x0 + c ∧ py = y0 + r ∧ (s.byteAt (a + r)).getLsbD (7 - c) = true

/-! ### The end of a run (R403) -/

/-- R403 (a): a faulted end, never a successful one. -/
def EndedInFault (s : State) : Prop := s.fault ≠ none

/-- R403 (b): a successful end, so of a block without a fault: the word at PC is `1NNN` with `NNN = PC`, a jump to
itself. -/
def EndedInSelfJump (s : State) : Prop :=
  s.fault = none ∧ fetch s = .ok (encode (.jp s.pc)) ∧ s.pc.toNat < 0x1000

/-- R403 (c): the host has issued `stop()`, which has stopped the block, and the tick is complete; `run()` and the
reset end this (log 19). -/
def EndedByStop (s : State) : Prop := s.stopIssued = true ∧ s.run = .stopped ∧ s.fault = none ∧ s.tickStep = 0

/-- The run has ended (R403): "one of these holds, and in no other state". -/
def Ended (s : State) : Prop := EndedInFault s ∨ EndedInSelfJump s ∨ EndedByStop s

/-- A safe state: no fault has been taken (R414 lists what a program keeps to stay in one). -/
def Safe (s : State) : Prop := s.fault = none

end Sys2Proof.Machine
end

