-- ==== Sys2Proof/Certificates/Slice0/Obligations.lean ====
section
/-! DEFINITION. The statements about the model, for the provers. `readV`, `stackAt`, `byteAt` and `pixel` read one
register, stack entry, byte and pixel; `KeepsRegsBut`, `KeepsAllBut` and `KeepsBytesOutside` are the frames of
Safety.lean. A register's number `regF` is that of VF. -/

open Sys2Proof Sys2Proof.Machine

/-! ### Encoding and decoding -/

/-- R80 to R83, R89: the decoder reads back every operand of every well-formed instruction, from the word and from
its two bytes. -/
def Obligations.DecodeOfEncodeIsTheInstruction : Prop :=
  ∀ i : Instr, i.wellFormed = true →
    decode (encode i) = .ok i ∧ decodeBytes (encodeBytes i) = .ok (i, [])

/-- R86, R89: an instruction comes from one word only, but for the low nibble of the majors 5 and 9, which is not
decoded; and what is decoded is well-formed. -/
def Obligations.EncodeOfDecodeIsTheWord : Prop :=
  ∀ (op : Word) (i : Instr), decode op = .ok i →
    i.wellFormed = true ∧
      (encode i).toNat =
        if bits 15 12 op = 0x5 ∨ bits 15 12 op = 0x9 then op.toNat / 16 * 16 else op.toNat

/-- R88, R92: a decoded word has the fixed bits of its own row of the opcode table and of no other, and a word that
is not decoded is an unknown opcode and has the fixed bits of no row. -/
def Obligations.DecodedWordFitsExactlyItsTableRow : Prop :=
  (∀ (op : Word) (i j : Instr), decode op = .ok i → (j.row.fits op = true ↔ j.row = i.row)) ∧
    ∀ (op : Word) (e : Reject), decode op = .error e → e = .unknownOpcode op ∧ ∀ j : Instr, j.row.fits op = false

/-- The words of R87 (a) to (d). -/
def UnknownWord (op : Word) : Prop :=
  (bits 15 12 op = 0x0 ∧ op ≠ 0x00E0 ∧ op ≠ 0x00EE) ∨
    (bits 15 12 op = 0x8 ∧ bits 3 0 op ∈ [0x8, 0x9, 0xA, 0xB, 0xC, 0xD, 0xF]) ∨
      (bits 15 12 op = 0xE ∧ bits 7 0 op ∉ [0x9E, 0xA1]) ∨
        (bits 15 12 op = 0xF ∧ bits 7 0 op ∉ [0x07, 0x0A, 0x15, 0x18, 0x1E, 0x29, 0x33, 0x55, 0x65])

/-- R87: the words that match nothing are exactly those of (a) to (d), and a step that fetches one raises
UnknownOpcode with the word, before any state changes. -/
def Obligations.UnknownWordsAreExactlyThoseOfTheDispatch : Prop :=
  (∀ op : Word, decode op = .error (.unknownOpcode op) ↔ UnknownWord op) ∧
    (∀ op : Word, ¬ UnknownWord op → ∃ i, decode op = .ok i) ∧
      ∀ (s s0 : State) (op : Word), StepStartsAt s s0 → fetch s0 = .ok op → UnknownWord op →
        step s = .next (takeFault (.unknownOpcode op) s0)

/-- R86: the low nibble of 5XYn and 9XYn is not examined. -/
def Obligations.LowNibbleOfRegisterSkipsIsIgnored : Prop :=
  ∀ (op : Word),
    (bits 15 12 op = 0x5 → decode op = .ok (.seReg (fieldX op) (fieldY op))) ∧
      (bits 15 12 op = 0x9 → decode op = .ok (.sneReg (fieldX op) (fieldY op)))

/-- R83, R92: words written out from the formats decode to the instructions they stand for. -/
def Obligations.WordsOfTheFormatsDecode : Prop :=
  decode 0x00EE = .ok .ret ∧ decode 0x2ABC = .ok (.call 0xABC) ∧ decode 0x4C5D = .ok (.sneImm 0xC 0x5D) ∧
    decode 0x8A3E = .ok (.shl 0xA 0x3) ∧ decode 0xD12F = .ok (.drw 0x1 0x2 0xF) ∧ decode 0xE5A1 = .ok (.sknp 0x5) ∧
      decode 0xF733 = .ok (.ldBVx 0x7)

/-! ### Fetch and step -/

/-- R64: fetch reads the big-endian word at PC and PC + 1, and its fault carries the kind fetch and the first
address out of range, which is 0x1000 when PC is 0xFFF. -/
def Obligations.FetchReadsTheBigEndianWord : Prop :=
  ∀ s : State,
    (s.pc.toNat + 1 < 0x1000 →
      ∃ op, fetch s = .ok op ∧ op.toNat = (s.byteAt s.pc.toNat).toNat * 256 + (s.byteAt (s.pc.toNat + 1)).toNat) ∧
    (s.pc.toNat = 0xFFF → fetch s = .error (.memOutOfRange 0x1000 .fetch)) ∧
    (0x1000 ≤ s.pc.toNat → fetch s = .error (.memOutOfRange s.pc.toNat .fetch))

/-- R89, R90: a step runs the instruction that the word at PC decodes to, and then, unless it raised a fault, ends
the step as `endStep` says (TheEndOfAStepRunsTheTick). -/
def Obligations.StepRunsTheDecodedInstruction : Prop :=
  ∀ (s s0 : State) (op : Word) (i : Instr),
    StepStartsAt s s0 → fetch s0 = .ok op → decode op = .ok i →
      ∃ t, exec i s0 = .next t ∧ step s = .next (if t.fault = none then endStep t else t)

/-- R301, R302: a step whose fetch fails takes the fetch's fault, whatever the bytes would decode to. -/
def Obligations.FetchFaultIsTakenBeforeDecode : Prop :=
  ∀ (s s0 : State) (f : Fault), StepStartsAt s s0 → fetch s0 = .error f → step s = .next (takeFault f s0)

/-- R90, R320 to R322, R331: what ends a step. `stepCounter` counts it; a screen left dirty is sent out and the flag
cleared; and after the last step of the tick both timers go down by one, floor at 0, one sound notification goes
out by the new ST, and `cycleCounter` counts the tick. -/
def Obligations.TheEndOfAStepRunsTheTick : Prop :=
  ∀ (s s0 t : State) (op : Word) (i : Instr),
    StepStartsAt s s0 → fetch s0 = .ok op → decode op = .ok i → exec i s0 = .next t → t.fault = none →
      ∃ u, step s = .next u ∧ u.stepCounter = t.stepCounter + 1 ∧ u.redraw = false ∧
        (t.tickStep + 1 < t.cfg.stepsPerTick →
          u.tickStep = t.tickStep + 1 ∧ u.dt = t.dt ∧ u.st = t.st ∧ u.cycleCounter = t.cycleCounter ∧
            u.outputs = t.outputs ++ (if t.redraw then [.redraw t.screen.bytes] else [])) ∧
        (t.cfg.stepsPerTick ≤ t.tickStep + 1 →
          u.tickStep = 0 ∧ u.dt.toNat = t.dt.toNat - 1 ∧ u.st.toNat = t.st.toNat - 1 ∧
            u.cycleCounter = t.cycleCounter + 1 ∧
            u.outputs = t.outputs ++ (if t.redraw then [.redraw t.screen.bytes] else []) ++
              [if u.st.toNat > 0 then .soundOn else .soundOff]) ∧
        KeepsAllBut [.stepCounter, .redraw, .tickStep, .dt, .st, .cycleCounter, .outputs] t u

/-- R29, R331: the redraw notification carries 2048 bytes, 0 or 1, the pixel (x, y) at index `y * 64 + x`. -/
def Obligations.RedrawCarriesTheBufferRowByRow : Prop :=
  ∀ scr : Screen, scr.bytes.length = 2048 ∧
    ∀ x y, x < 64 → y < 32 → scr.bytes[y * 64 + x]? = some (if scr.pixel x y then 1 else 0)

/-! ### Memory -/

/-- R62, R63: a read inside the address space gives the byte, a write is read back and changes no other byte, and an
access at or above 0x1000 raises MemOutOfRange with its address and kind and reads or writes nothing. -/
def Obligations.MemoryReadsBackWhatIsWritten : Prop :=
  ∀ (s : State) (kind : AccessKind) (a : Nat) (b : Byte), Memory.wf s.cfg s.mem = true →
    (a < 0x1000 → memRead s kind a = .ok (s.byteAt a) ∧
      ∃ t, memWrite s a b = .ok t ∧ memRead t kind a = .ok b ∧ KeepsBytesOutside a 1 s t ∧ KeepsAllBut [.mem] s t) ∧
    (0x1000 ≤ a → memRead s kind a = .error (.memOutOfRange a kind) ∧
      memWrite s a b = .error (.memOutOfRange a .write))

/-- The model's own form of memory (log 4): two canonical memories whose bytes are all the same are the same data. -/
def Obligations.MemoriesWithEqualBytesAreEqual : Prop :=
  ∀ (cfg : Config) (m m' : Memory), Memory.wf cfg m = true → Memory.wf cfg m' = true →
    (∀ a, Memory.byteAt cfg m a = Memory.byteAt cfg m' a) → m = m'

/-- R71: bytes that FX55 has stored are fetched by the next step: the word it fetches there is the registers'. -/
def Obligations.StoredBytesAreFetchedAtOnce : Prop :=
  ∀ (s : State) (x k k' : Reg), Memory.wf s.cfg s.mem = true → s.dataBase + x.val < 0x1000 →
    k'.val = k.val + 1 → k' ≤ x → s.dataBase + k.val = (s.pc.toNat + 2) % 0x1000 →
      ∃ t, exec (.ldMemVx x) s = .next t ∧ fetch t = .ok (wordOfBytes (s.readV k) (s.readV k'))

/-! ### Loads and the ALU -/

/-- Every word of which `fits` holds decodes to the instruction that `instr` reads from its fields: the encoding of an
instruction's rule. -/
def WordsDecodeTo (fits : Word → Prop) (instr : Word → Instr) : Prop := ∀ op : Word, fits op → decode op = .ok (instr op)

/-- The words of a major opcode. -/
def OfMajor (major : Nat) (op : Word) : Prop := bits 15 12 op = major

/-- The words of the major opcode 8 with a function nibble. -/
def OfAlu (function : Nat) (op : Word) : Prop := bits 15 12 op = 0x8 ∧ bits 3 0 op = function

/-- The words of the major opcode E or F with a function byte. -/
def OfFunction (major function : Nat) (op : Word) : Prop := bits 15 12 op = major ∧ bits 7 0 op = function

/-- R142: 6XNN loads the immediate; nothing else changes but PC. -/
def Obligations.LoadImmediateWritesItsRegister : Prop :=
  WordsDecodeTo (OfMajor 0x6) (fun op => .ldImm (fieldX op) (fieldNN op)) ∧
  ∀ (x : Reg) (nn : Byte) (s : State), ∃ t, exec (.ldImm x nn) s = .next t ∧
    t.readV x = nn ∧ PcAdvancedBy 2 s t ∧ KeepsRegsBut [x] s t ∧ KeepsAllBut [.regs, .pc] s t

/-- R143: 7XNN adds modulo 256 and reports no carry: VF changes only as the destination. -/
def Obligations.AddImmediateReportsNoCarry : Prop :=
  WordsDecodeTo (OfMajor 0x7) (fun op => .addImm (fieldX op) (fieldNN op)) ∧
  ∀ (x : Reg) (nn : Byte) (s : State), ∃ t, exec (.addImm x nn) s = .next t ∧
    (t.readV x).toNat = ((s.readV x).toNat + nn.toNat) % 256 ∧ PcAdvancedBy 2 s t ∧ KeepsRegsBut [x] s t ∧
      KeepsAllBut [.regs, .pc] s t

/-- A form of one destination register that sets no flag: the register's new value, PC, and the frame. -/
def WritesOneRegister (i : Instr) (x : Reg) (value : Byte) (s : State) : Prop :=
  ∃ t, exec i s = .next t ∧ t.readV x = value ∧ PcAdvancedBy 2 s t ∧ KeepsRegsBut [x] s t ∧
    KeepsAllBut [.regs, .pc] s t

/-- R144 to R147: MOV, OR, AND and XOR write VX, and VF is not reset. -/
def Obligations.CopyAndLogicWriteOnlyTheirRegister : Prop :=
  WordsDecodeTo (OfAlu 0x0) (fun op => .mov (fieldX op) (fieldY op)) ∧
  WordsDecodeTo (OfAlu 0x1) (fun op => .or (fieldX op) (fieldY op)) ∧
  WordsDecodeTo (OfAlu 0x2) (fun op => .and (fieldX op) (fieldY op)) ∧
  WordsDecodeTo (OfAlu 0x3) (fun op => .xor (fieldX op) (fieldY op)) ∧
  ∀ (x y : Reg) (s : State),
    WritesOneRegister (.mov x y) x (s.readV y) s ∧
    WritesOneRegister (.or x y) x (s.readV x ||| s.readV y) s ∧
    WritesOneRegister (.and x y) x (s.readV x &&& s.readV y) s ∧
    WritesOneRegister (.xor x y) x (s.readV x ^^^ s.readV y) s

/-- A form of one destination register that sets a flag: VF is the flag whatever X is (R141), VX the result where
X is not F, PC, and the frame. -/
def WritesResultAndFlag (i : Instr) (x : Reg) (result : Nat) (flag : Prop) (s : State) : Prop :=
  ∃ t, exec i s = .next t ∧ (x ≠ regF → (t.readV x).toNat = result) ∧
    (flag → t.readV regF = 1) ∧ (¬ flag → t.readV regF = 0) ∧ PcAdvancedBy 2 s t ∧ KeepsRegsBut [x, regF] s t ∧
      KeepsAllBut [.regs, .pc] s t

/-- R148: ADD, with the carry of the exact sum in VF. -/
def Obligations.AddSetsTheCarry : Prop :=
  WordsDecodeTo (OfAlu 0x4) (fun op => .add (fieldX op) (fieldY op)) ∧
  ∀ (x y : Reg) (s : State),
    WritesResultAndFlag (.add x y) x (((s.readV x).toNat + (s.readV y).toNat) % 256)
      ((s.readV x).toNat + (s.readV y).toNat > 0xFF) s

/-- R149, R151: SUB and SUBN, with the NOT-borrow in VF, 1 at equality. -/
def Obligations.SubtractionsSetTheNotBorrow : Prop :=
  WordsDecodeTo (OfAlu 0x5) (fun op => .sub (fieldX op) (fieldY op)) ∧
  WordsDecodeTo (OfAlu 0x7) (fun op => .subn (fieldX op) (fieldY op)) ∧
  ∀ (x y : Reg) (s : State),
    WritesResultAndFlag (.sub x y) x (((s.readV x).toNat + 256 - (s.readV y).toNat) % 256)
      ((s.readV x).toNat ≥ (s.readV y).toNat) s ∧
    WritesResultAndFlag (.subn x y) x (((s.readV y).toNat + 256 - (s.readV x).toNat) % 256)
      ((s.readV y).toNat ≥ (s.readV x).toNat) s

/-- R150, R152: SHR and SHL read VY, or VX under the shift quirk, and VF is the bit shifted out of what they read. -/
def Obligations.ShiftsFollowTheQuirk : Prop :=
  WordsDecodeTo (OfAlu 0x6) (fun op => .shr (fieldX op) (fieldY op)) ∧
  WordsDecodeTo (OfAlu 0xE) (fun op => .shl (fieldX op) (fieldY op)) ∧
  ∀ (x y : Reg) (s : State) (src : Byte), src = (if s.shift = true then s.readV x else s.readV y) →
    WritesResultAndFlag (.shr x y) x (src.toNat / 2) (src.getLsbD 0 = true) s ∧
    WritesResultAndFlag (.shl x y) x (src.toNat * 2 % 256) (src.getLsbD 7 = true) s

/-- R153: CXNN writes the drawn byte masked by NN, whatever byte is drawn, and takes one draw (log 2). -/
def Obligations.RandomByteIsMasked : Prop :=
  WordsDecodeTo (OfMajor 0xC) (fun op => .rnd (fieldX op) (fieldNN op)) ∧
  ∀ (x : Reg) (nn : Byte) (s : State), ∃ t, exec (.rnd x nn) s = .next t ∧
    t.readV x = Config.rand s.draws &&& nn ∧ (nn = 0 → t.readV x = 0) ∧ t.draws = s.draws + 1 ∧
      PcAdvancedBy 2 s t ∧ KeepsRegsBut [x] s t ∧ KeepsAllBut [.regs, .draws, .pc] s t

/-- R21: VF is written only by the six flag instructions and by an instruction that names VF as its destination;
and when one of the six completes, VF is 0 or 1. -/
def Obligations.OnlyFlagInstructionsAndDestinationsWriteVF : Prop :=
  ∀ (i : Instr) (s t : State), exec i s = .next t →
    (instrWritesFlag i = false → regF ∉ instrDests i → t.readV regF = s.readV regF) ∧
      (instrWritesFlag i = true → s.fault = none → t.fault = none → t.readV regF = 0 ∨ t.readV regF = 1)

/-! ### Control transfer -/

/-- A skip: PC advances by 4 when the condition holds and by 2 when it does not, and nothing else changes. -/
def SkipsWhen (i : Instr) (cond : Prop) (s : State) : Prop :=
  ∃ t, exec i s = .next t ∧ (cond → PcAdvancedBy 4 s t) ∧ (¬ cond → PcAdvancedBy 2 s t) ∧ KeepsAllBut [.pc] s t

/-- R115 to R118: the four skips on registers and immediates. -/
def Obligations.ComparisonSkipsAdvanceByFourOrTwo : Prop :=
  WordsDecodeTo (OfMajor 0x3) (fun op => .seImm (fieldX op) (fieldNN op)) ∧
  WordsDecodeTo (OfMajor 0x4) (fun op => .sneImm (fieldX op) (fieldNN op)) ∧
  WordsDecodeTo (OfMajor 0x5) (fun op => .seReg (fieldX op) (fieldY op)) ∧
  WordsDecodeTo (OfMajor 0x9) (fun op => .sneReg (fieldX op) (fieldY op)) ∧
  ∀ (x y : Reg) (nn : Byte) (s : State),
    SkipsWhen (.seImm x nn) (s.readV x = nn) s ∧ SkipsWhen (.sneImm x nn) (s.readV x ≠ nn) s ∧
      SkipsWhen (.seReg x y) (s.readV x = s.readV y) s ∧ SkipsWhen (.sneReg x y) (s.readV x ≠ s.readV y) s

/-- R113, R119: JP goes to NNN, and JP V0 to NNN plus V0 modulo 4096; no stack entry and no register changes. -/
def Obligations.JumpsSetOnlyThePc : Prop :=
  WordsDecodeTo (OfMajor 0x1) (fun op => .jp (fieldNNN op)) ∧
  WordsDecodeTo (OfMajor 0xB) (fun op => .jpV0 (fieldNNN op)) ∧
  ∀ (nnn : Word) (s : State),
    (∃ t, exec (.jp nnn) s = .next t ∧ t.pc = nnn ∧ KeepsAllBut [.pc] s t) ∧
    (∃ t, exec (.jpV0 nnn) s = .next t ∧ t.pc.toNat = (nnn.toNat + (s.readV 0).toNat) % 0x1000 ∧
      KeepsAllBut [.pc] s t)

/-- R114: CALL stores its own address at the stack pointer, advances the pointer modulo 16 and goes to NNN; with
SP = 15 too, and no fault is raised. -/
def Obligations.CallPushesItsOwnAddress : Prop :=
  WordsDecodeTo (OfMajor 0x2) (fun op => .call (fieldNNN op)) ∧
  ∀ (nnn : Word) (s : State), ∃ t, exec (.call nnn) s = .next t ∧
    t.stackAt s.sp = s.pc ∧ (∀ j, j ≠ s.sp → t.stackAt j = s.stackAt j) ∧ t.sp.val = (s.sp.val + 1) % 16 ∧
      t.pc = nnn ∧ KeepsAllBut [.stack, .sp, .pc] s t

/-- R112: RET moves the stack pointer down modulo 16, goes to the entry there plus 2, and leaves the entry; with
SP = 0 too, and no fault is raised. -/
def Obligations.ReturnGoesPastThePoppedAddress : Prop :=
  decode 0x00EE = .ok .ret ∧
  ∀ s : State, ∃ t, exec .ret s = .next t ∧ t.sp.val = (s.sp.val + 15) % 16 ∧
    t.pc.toNat = ((s.stackAt t.sp).toNat + 2) % 0x1000 ∧ KeepsAllBut [.sp, .pc] s t

/-- R120, first sentence: after a CALL and any code that leaves SP and the written entry as the CALL left them, RET
resumes at the CALL's address plus 2 with SP as before the CALL. -/
def Obligations.ReturnResumesAfterItsCall : Prop :=
  ∀ (nnn : Word) (s t u : State), exec (.call nnn) s = .next t → u.sp = t.sp → u.stackAt s.sp = t.stackAt s.sp →
    ∃ r, exec .ret u = .next r ∧ r.pc.toNat = (s.pc.toNat + 2) % 0x1000 ∧ r.sp = s.sp

/-- R120, second sentence: up to 16 nested calls each return: after `n` of `k` nested calls, `n ≤ k ≤ 16`, have
returned, the block stands after the call that the n-th return answers. `targets` are the addresses called, the
outermost first; the call in position `j` of the nesting stands at the target before it. -/
def Obligations.SixteenNestedCallsReturn : Prop :=
  ∀ (targets : List Word) (s : State) (n : Nat), targets.length ≤ 16 → 0 < n → n ≤ targets.length →
    ∃ t, execAll (targets.map .call ++ List.replicate n .ret) s = .next t ∧
      t.sp.val = (s.sp.val + (targets.length - n)) % 16 ∧
      t.pc.toNat = (((s.pc :: targets).getD (targets.length - n) 0).toNat + 2) % 0x1000

/-- R25: CALL writes `(SP + 1) mod 16`, RET writes `(SP - 1) mod 16`, and no other instruction touches SP. -/
def Obligations.OnlyCallAndReturnMoveTheStackPointer : Prop :=
  ∀ (i : Instr) (s t : State), exec i s = .next t →
    ((∃ nnn, i = .call nnn) → t.sp.val = (s.sp.val + 1) % 16) ∧
      (i = .ret → t.sp.val = (s.sp.val + 15) % 16) ∧
        ((∀ nnn, i ≠ .call nnn) → i ≠ .ret → t.sp = s.sp)

/-- R91: every instruction ends with PC advanced by 2, but RET, JP, CALL and JP V0, the six skips, which advance by
2 or 4, and FX0A while no key is pressed, which leaves PC; where it raises no fault. -/
def Obligations.PcAdvancesByTwoButForTransfersSkipsAndWaiting : Prop :=
  ∀ (i : Instr) (s t : State), s.fault = none → exec i s = .next t → t.fault = none →
    (i = .ret ∨ ∃ nnn, i = .jp nnn ∨ i = .call nnn ∨ i = .jpV0 nnn) ∨
    ((∃ x y nn, i = .seImm x nn ∨ i = .sneImm x nn ∨ i = .seReg x y ∨ i = .sneReg x y ∨ i = .skp x ∨ i = .sknp x) ∧
      (PcAdvancedBy 2 s t ∨ PcAdvancedBy 4 s t)) ∨
    ((∃ x, i = .ldVxK x) ∧ (∀ k : Reg, s.keys[k.val] = false) ∧ t.pc = s.pc) ∨
    PcAdvancedBy 2 s t

/-! ### The index register and memory transfers -/

/-- R180, R181, R182: ANNN loads I, FX1E adds VX modulo 4096 and leaves VF, FX29 sets I to five times all of VX. -/
def Obligations.IndexInstructionsWriteOnlyI : Prop :=
  WordsDecodeTo (OfMajor 0xA) (fun op => .ldI (fieldNNN op)) ∧
  WordsDecodeTo (OfFunction 0xF 0x1E) (fun op => .addIVx (fieldX op)) ∧
  WordsDecodeTo (OfFunction 0xF 0x29) (fun op => .ldFVx (fieldX op)) ∧
  ∀ (x : Reg) (nnn : Word) (s : State),
    (∃ t, exec (.ldI nnn) s = .next t ∧ t.i = nnn ∧ PcAdvancedBy 2 s t ∧ KeepsAllBut [.index, .pc] s t) ∧
    (∃ t, exec (.addIVx x) s = .next t ∧ t.i.toNat = (s.i.toNat + (s.readV x).toNat) % 0x1000 ∧ PcAdvancedBy 2 s t ∧
      KeepsAllBut [.index, .pc] s t) ∧
    (∃ t, exec (.ldFVx x) s = .next t ∧ t.i.toNat = (s.readV x).toNat * 5 ∧ PcAdvancedBy 2 s t ∧
      KeepsAllBut [.index, .pc] s t)

/-- R183: FX33 stores the hundreds, tens and ones of VX at I, I+1, I+2, leaves I and every other byte; where the
three bytes do not fit it takes MemOutOfRange at 0x1000 and writes none. -/
def Obligations.DecimalDigitsAreStored : Prop :=
  WordsDecodeTo (OfFunction 0xF 0x33) (fun op => .ldBVx (fieldX op)) ∧
  ∀ (x : Reg) (s : State), Memory.wf s.cfg s.mem = true → s.i.toNat < 0x1000 →
    (s.dataBase + 2 < 0x1000 → ∃ t, exec (.ldBVx x) s = .next t ∧
      (t.byteAt s.dataBase).toNat = (s.readV x).toNat / 100 ∧
      (t.byteAt (s.dataBase + 1)).toNat = (s.readV x).toNat / 10 % 10 ∧
      (t.byteAt (s.dataBase + 2)).toNat = (s.readV x).toNat % 10 ∧
      KeepsBytesOutside s.dataBase 3 s t ∧ PcAdvancedBy 2 s t ∧ KeepsAllBut [.mem, .pc] s t) ∧
    (0x1000 ≤ s.dataBase + 2 → exec (.ldBVx x) s = .next (takeFault (.memOutOfRange 0x1000 .write) s))

/-- What FX55 and FX65 do to I: `(I + X + 1) & 0xFFF`, or nothing under the loadStore quirk (R26). -/
def IndexAfterBlock (x : Reg) (s t : State) : Prop :=
  (s.loadStore = false → t.i.toNat = (s.i.toNat + x.val + 1) % 0x1000) ∧ (s.loadStore = true → t.i = s.i)

/-- R184: FX55 stores V0 to VX from I on and moves I by the quirk; where the bytes do not fit it takes
MemOutOfRange at 0x1000 and writes none of them. -/
def Obligations.BlockStoreWritesTheRegisters : Prop :=
  WordsDecodeTo (OfFunction 0xF 0x55) (fun op => .ldMemVx (fieldX op)) ∧
  ∀ (x : Reg) (s : State), Memory.wf s.cfg s.mem = true → s.i.toNat < 0x1000 →
    (s.dataBase + x.val < 0x1000 → ∃ t, exec (.ldMemVx x) s = .next t ∧
      (∀ k : Reg, k ≤ x → t.byteAt (s.dataBase + k.val) = s.readV k) ∧
      KeepsBytesOutside s.dataBase (x.val + 1) s t ∧ IndexAfterBlock x s t ∧ PcAdvancedBy 2 s t ∧
      KeepsAllBut [.mem, .index, .pc] s t) ∧
    (0x1000 ≤ s.dataBase + x.val → exec (.ldMemVx x) s = .next (takeFault (.memOutOfRange 0x1000 .write) s))

/-- R185: FX65 loads V0 to VX from I on and moves I by the quirk; every other register and every byte stays; where
an address is out of range it takes MemOutOfRange at 0x1000 and loads none. -/
def Obligations.BlockLoadReadsTheRegisters : Prop :=
  WordsDecodeTo (OfFunction 0xF 0x65) (fun op => .ldVxMem (fieldX op)) ∧
  ∀ (x : Reg) (s : State), s.i.toNat < 0x1000 →
    (s.dataBase + x.val < 0x1000 → ∃ t, exec (.ldVxMem x) s = .next t ∧
      (∀ k : Reg, k ≤ x → t.readV k = s.byteAt (s.dataBase + k.val)) ∧ (∀ k : Reg, x < k → t.readV k = s.readV k) ∧
      IndexAfterBlock x s t ∧ PcAdvancedBy 2 s t ∧ KeepsAllBut [.regs, .index, .pc] s t) ∧
    (0x1000 ≤ s.dataBase + x.val → exec (.ldVxMem x) s = .next (takeFault (.memOutOfRange 0x1000 .read) s))

/-! ### The screen -/

/-- R210: CLS clears every pixel and sets redraw, an already clear screen too. -/
def Obligations.ClearScreenBlanksEveryPixel : Prop :=
  decode 0x00E0 = .ok .cls ∧
  ∀ s : State, ∃ t, exec .cls s = .next t ∧ (∀ x y, t.screen.pixel x y = false) ∧ t.redraw = true ∧
    PcAdvancedBy 2 s t ∧ KeepsAllBut [.screen, .redraw, .pc] s t

/-- The left column of a DXYN's sprite: VX as it stands before the instruction (R141, R211). -/
def spriteColumn (s : State) (x : Reg) : Nat := (s.readV x).toNat

/-- The top row of a DXYN's sprite: VY as it stands before the instruction (R141, R211). -/
def spriteRow (s : State) (y : Reg) : Nat := (s.readV y).toNat

/-- R211: where its sprite bytes lie in memory and its set bits on the screen, DXYN toggles exactly the pixels
under set bits, VF says whether one of them was set, and redraw is set; N = 0 too. -/
def Obligations.DrawTogglesThePixelsUnderSetBits : Prop :=
  WordsDecodeTo (OfMajor 0xD) (fun op => .drw (fieldX op) (fieldY op) (fieldN op)) ∧
  ∀ (x y : Reg) (n : Nat) (s : State), n = 0 ∨ s.dataBase + n ≤ 0x1000 →
    (∀ px py, spriteCovers s s.dataBase (spriteColumn s x) (spriteRow s y) n px py → px < 64 ∧ py < 32) →
      ∃ t, exec (.drw x y n) s = .next t ∧
        (∀ px py, spriteCovers s s.dataBase (spriteColumn s x) (spriteRow s y) n px py →
          t.screen.pixel px py = !s.screen.pixel px py) ∧
        (∀ px py, ¬ spriteCovers s s.dataBase (spriteColumn s x) (spriteRow s y) n px py →
          t.screen.pixel px py = s.screen.pixel px py) ∧
        ((∃ px py, spriteCovers s s.dataBase (spriteColumn s x) (spriteRow s y) n px py ∧
          s.screen.pixel px py = true) → t.readV regF = 1) ∧
        ((∀ px py, spriteCovers s s.dataBase (spriteColumn s x) (spriteRow s y) n px py →
          s.screen.pixel px py = false) → t.readV regF = 0) ∧
        t.redraw = true ∧ PcAdvancedBy 2 s t ∧ KeepsRegsBut [regF] s t ∧
        KeepsAllBut [.screen, .redraw, .regs, .pc] s t

/-- R211, R302: a DXYN whose bytes leave memory takes MemOutOfRange at 0x1000 before any pixel; one whose bytes do
not takes DrawOutOfRange of its first set bit, in row-then-column order, that lies outside the buffer. -/
def Obligations.DrawFaultsPrecisely : Prop :=
  ∀ (x y : Reg) (n : Nat) (s : State), s.i.toNat < 0x1000 →
    (0x1000 < s.dataBase + n → exec (.drw x y n) s = .next (takeFault (.memOutOfRange 0x1000 .read) s)) ∧
    ∀ r c, s.dataBase + n ≤ 0x1000 → r < n → c < 8 → (s.byteAt (s.dataBase + r)).getLsbD (7 - c) = true →
      64 ≤ spriteColumn s x + c ∨ 32 ≤ spriteRow s y + r →
      (∀ r' c', r' < r ∨ (r' = r ∧ c' < c) → c' < 8 → (s.byteAt (s.dataBase + r')).getLsbD (7 - c') = true →
        spriteColumn s x + c' < 64 ∧ spriteRow s y + r' < 32) →
      exec (.drw x y n) s = .next (takeFault (.drawOutOfRange (spriteColumn s x + c) (spriteRow s y + r)) s)

/-- Derived from R211: drawing the same sprite twice at the same place restores the screen, and the second draw
gives VF = 1 exactly when some pixel under a set bit was unset before the first, as every one is on a blank screen
(log 15). X and Y are not F, since the first draw writes VF. -/
def Obligations.DrawingTwiceRestoresTheScreen : Prop :=
  ∀ (x y : Reg) (n : Nat) (s : State), x ≠ regF → y ≠ regF → s.dataBase + n ≤ 0x1000 →
    (∀ px py, spriteCovers s s.dataBase (spriteColumn s x) (spriteRow s y) n px py → px < 64 ∧ py < 32) →
      ∃ t u, exec (.drw x y n) s = .next t ∧ exec (.drw x y n) t = .next u ∧ u.screen = s.screen ∧
        ((∃ px py, spriteCovers s s.dataBase (spriteColumn s x) (spriteRow s y) n px py ∧
          s.screen.pixel px py = false) → u.readV regF = 1) ∧
        ((∀ px py, spriteCovers s s.dataBase (spriteColumn s x) (spriteRow s y) n px py →
          s.screen.pixel px py = true) → u.readV regF = 0)

/-! ### Keys and timers -/

/-- R230 to R232: with VX below 16, EX9E skips when key VX is pressed and EXA1 when it is not; with VX of 16 or more
both take KeyIndexOutOfRange. -/
def Obligations.KeySkipsTestTheKeyOrFault : Prop :=
  WordsDecodeTo (OfFunction 0xE 0x9E) (fun op => .skp (fieldX op)) ∧
  WordsDecodeTo (OfFunction 0xE 0xA1) (fun op => .sknp (fieldX op)) ∧
  ∀ (x : Reg) (s : State),
    (∀ h : (s.readV x).toNat < 16,
      SkipsWhen (.skp x) (s.keys[(s.readV x).toNat] = true) s ∧
        SkipsWhen (.sknp x) (s.keys[(s.readV x).toNat] = false) s) ∧
    (16 ≤ (s.readV x).toNat →
      exec (.skp x) s = .next (takeFault (.keyIndexOutOfRange (s.readV x)) s) ∧
        exec (.sknp x) s = .next (takeFault (.keyIndexOutOfRange (s.readV x)) s))

/-- R233, R235, R236: FX07 reads DT into VX, FX15 and FX18 copy VX into DT and ST. -/
def Obligations.TimerInstructionsCopyBytes : Prop :=
  WordsDecodeTo (OfFunction 0xF 0x07) (fun op => .ldVxDt (fieldX op)) ∧
  WordsDecodeTo (OfFunction 0xF 0x15) (fun op => .ldDtVx (fieldX op)) ∧
  WordsDecodeTo (OfFunction 0xF 0x18) (fun op => .ldStVx (fieldX op)) ∧
  ∀ (x : Reg) (s : State),
    WritesOneRegister (.ldVxDt x) x s.dt s ∧
    (∃ t, exec (.ldDtVx x) s = .next t ∧ t.dt = s.readV x ∧ PcAdvancedBy 2 s t ∧ KeepsAllBut [.dt, .pc] s t) ∧
    (∃ t, exec (.ldStVx x) s = .next t ∧ t.st = s.readV x ∧ PcAdvancedBy 2 s t ∧ KeepsAllBut [.st, .pc] s t)

/-- R234: with no key pressed FX0A changes nothing, PC included; else VX becomes the index of some pressed key, any
of them by the free choice (log 3), and PC advances. -/
def Obligations.WaitForKeyPollsOrTakesAPressedKey : Prop :=
  WordsDecodeTo (OfFunction 0xF 0x0A) (fun op => .ldVxK (fieldX op)) ∧
  ∀ (x : Reg) (s : State),
    ((∀ k : Reg, s.keys[k.val] = false) → exec (.ldVxK x) s = .next s) ∧
    ((∃ k : Reg, s.keys[k.val] = true) → ∃ t, exec (.ldVxK x) s = .next t ∧
      (∃ k : Reg, s.keys[k.val] = true ∧ (t.readV x).toNat = k.val) ∧ PcAdvancedBy 2 s t ∧ KeepsRegsBut [x] s t ∧
      KeepsAllBut [.regs, .draws, .pc] s t)

/-- R26, R31, R330, R334: inside a tick no step changes the keys, the quirk bits or what the host will do next. -/
def Obligations.HostInputsAreConstantInsideATick : Prop :=
  ∀ s t : State, s.active = true → s.tickStep ≠ 0 → step s = .next t →
    t.keys = s.keys ∧ t.loadStore = s.loadStore ∧ t.shift = s.shift ∧ t.inputs = s.inputs

/-! ### Whole-machine frames -/

/-- R20 to R32: an instruction that completes writes only PC and the parts of its kind, of the registers only its
destination and its flag, and of memory only the bytes it stores from I on; one that faults writes only the fault,
the sequencer state, the position in the tick and the fault report (R301). -/
def Obligations.InstructionsWriteOnlyTheirParts : Prop :=
  ∀ (i : Instr) (s t : State), Memory.wf s.cfg s.mem = true → s.fault = none → exec i s = .next t →
    (t.fault = none → KeepsAllBut (.pc :: instrWrites i) s t ∧
      KeepsRegsBut (if instrWritesFlag i then regF :: instrDests i else instrDests i) s t ∧
      KeepsBytesOutside s.dataBase (instrStoredBytes i) s t) ∧
    (t.fault ≠ none → KeepsAllBut [.fault, .run, .tickStep, .outputs] s t)

/-! ### Faults -/

/-- R301: taking a fault is precise and all-or-nothing. A step that ends in a fault leaves every field as it stood
at the start of the step but `fault`, `run`, the tick position and the fault report it emits; and the only input
that clears a fault is the reset command. That the tick position is 0 then is the model's reading (log 7). -/
def Obligations.FaultsArePreciseAndFinal : Prop :=
  (∀ s t : State, s.fault = none → step s = .next t → t.fault ≠ none →
    ∃ s0 f, StepStartsAt s s0 ∧ t =
      { s0 with
        fault := some ⟨f, s0.pc⟩
        run := .stopped
        tickStep := 0
        outputs := s0.outputs ++ [.faultReport f.code ⟨f, s0.pc⟩] }) ∧
  ∀ (s t : State) (r : FaultRecord), s.fault = some r → step s = .next t →
    (∀ rest, s.inputs ≠ .cmdReset :: rest) → t.fault = some r

/-- R303: the fault record stays set and the block takes no step, `run` set or not, until the reset command: no other
move clears the record, or counts a step or a tick, and with no host input there the state stays as it is. -/
def Obligations.AFaultedBlockTakesNoStep : Prop :=
  ∀ (s t : State), s.fault ≠ none → step s = .next t →
    (s.inputs = [] → t = s) ∧
      ((∀ rest, s.inputs ≠ .cmdReset :: rest) →
        t.fault = s.fault ∧ t.stepCounter = s.stepCounter ∧ t.cycleCounter = s.cycleCounter)

/-- R300: which instructions raise which cause, with what information, and the codes. -/
def Obligations.EachFaultCauseHasItsInstructions : Prop :=
  (∀ (i : Instr) (s t : State) (r : FaultRecord), s.fault = none → exec i s = .next t → t.fault = some r →
    r.pc = s.pc ∧
      ((∃ a, 0x1000 ≤ a ∧ s.dataBase ≤ a ∧
          ((r.cause = .memOutOfRange a .read ∧ ((∃ x y n, i = .drw x y n) ∨ ∃ x, i = .ldVxMem x)) ∨
            (r.cause = .memOutOfRange a .write ∧ ∃ x, i = .ldBVx x ∨ i = .ldMemVx x))) ∨
        (∃ x, r.cause = .keyIndexOutOfRange (s.readV x) ∧ 16 ≤ (s.readV x).toNat ∧ (i = .skp x ∨ i = .sknp x)) ∨
        (∃ px py, r.cause = .drawOutOfRange px py ∧ (64 ≤ px ∨ 32 ≤ py) ∧ ∃ x y n, i = .drw x y n))) ∧
  (∀ op, (Fault.unknownOpcode op).code = 1) ∧ (∀ a k, (Fault.memOutOfRange a k).code = 2) ∧
    (∀ b, (Fault.keyIndexOutOfRange b).code = 3) ∧ (∀ x y, (Fault.drawOutOfRange x y).code = 4)

/-! ### Reset, invariant and runs -/

/-- R40: the reset value of every field. -/
def Obligations.ResetGivesEveryFieldItsValue : Prop :=
  (∀ a, (h : a < 0x50) → State.reset.byteAt a = State.reset.cfg.font[a]) ∧
    (∀ a, 0x50 ≤ a → State.reset.byteAt a = 0) ∧ (∀ r, State.reset.readV r = 0) ∧ State.reset.i = 0 ∧
    State.reset.pc = 0x200 ∧ (∀ j, State.reset.stackAt j = 0) ∧ State.reset.sp = 0 ∧ State.reset.dt = 0 ∧
    State.reset.st = 0 ∧ (∀ x y, State.reset.screen.pixel x y = false) ∧ State.reset.redraw = false ∧
    (∀ k : Reg, State.reset.keys[k.val] = false) ∧ State.reset.loadStore = false ∧ State.reset.shift = false ∧
    State.reset.cycleCounter = 0 ∧ State.reset.stepCounter = 0 ∧ State.reset.run = .stopped ∧
    State.reset.fault = none ∧ State.reset.tickStep = 0

/-- R39, with the model's own forms (log 4, 10): the state after reset is legal (the invariant of
StepKeepsTheStateLegal). -/
def Obligations.ResetStateIsLegal : Prop := State.reset.Inv

/-- R39, with the canonical forms of the model's lists (log 4, 10): every move, a step of the instruction stream or a
host input, keeps the state legal: I, PC and the stack entries inside 12 bits, memory and slots in their canonical
forms, `redraw` clear between steps, `tickStep` inside the tick, and only an active block inside a tick. -/
def Obligations.StepKeepsTheStateLegal : Prop :=
  ∀ s t : State, s.Inv → step s = .next t → t.Inv

/-- R32, R320: a move that ends without a fault and counts a step counts exactly one, and moves exactly one position
on in the ticks. -/
def Obligations.EveryStepMovesOnePositionInTheTicks : Prop :=
  ∀ s s0 t : State, s.Inv → StepStartsAt s s0 → step s = .next t → t.fault = none →
    t.stepCounter = s.stepCounter + 1 ∧ t.cfg = s.cfg ∧
      t.cycleCounter * t.cfg.stepsPerTick + t.tickStep = s.cycleCounter * s.cfg.stepsPerTick + s.tickStep + 1

/-- R320: each tick runs STEPS_PER_TICK steps and then ends once: after that many moves from the start of a tick,
with no host input there and no fault raised, the next tick can start (the
timer ticks on once the inputs are used up: log 8). -/
def Obligations.ATickIsItsFixedNumberOfSteps : Prop :=
  ∀ s t : State, s.Inv → s.active = true → s.inputs = [] → s.tickStep = 0 →
    Sys2Proof.core.run s.cfg.stepsPerTick s = .next t → t.fault = none →
      t.tickStep = 0 ∧ t.cycleCounter = s.cycleCounter + 1 ∧ t.stepCounter = s.stepCounter + s.cfg.stepsPerTick ∧
        t.active = true

/-- R403 (b): from a jump to itself, every later state differs only in the counters, the position in the tick, the
timers and what has been emitted; with no host input there (log 8). -/
def Obligations.ASelfJumpIsTheEndOfTheRun : Prop :=
  ∀ (s : State) (k : Nat), s.Inv → s.active = true → s.inputs = [] → EndedInSelfJump s →
    ∃ t, Sys2Proof.core.run k s = .next t ∧
      KeepsAllBut [.stepCounter, .cycleCounter, .tickStep, .dt, .st, .outputs] s t ∧ EndedInSelfJump t

/-! ### The host's ports -/

/-- R400, with the command as the next input (log 8): the reset command gives every field of R40 its reset value from
any stopped state, a faulted one too; the font comes back; and a second reset command changes nothing more. -/
def Obligations.ResetCommandRestoresTheResetState : Prop :=
  ∀ (s : State) (rest : List HostInput), s.run = .stopped → s.inputs = .cmdReset :: rest →
    ∃ t, step s = .next t ∧
      (∀ a, (h : a < 0x50) → t.byteAt a = s.cfg.font[a]) ∧ (∀ a, 0x50 ≤ a → t.byteAt a = 0) ∧
      (∀ r, t.readV r = 0) ∧ t.i = 0 ∧ t.pc = 0x200 ∧ (∀ j, t.stackAt j = 0) ∧ t.sp = 0 ∧ t.dt = 0 ∧ t.st = 0 ∧
      (∀ x y, t.screen.pixel x y = false) ∧ t.redraw = false ∧ (∀ k : Reg, t.keys[k.val] = false) ∧
      t.loadStore = false ∧ t.shift = false ∧ t.cycleCounter = 0 ∧ t.stepCounter = 0 ∧ t.run = .stopped ∧
      t.stopIssued = false ∧ t.fault = none ∧ t.tickStep = 0 ∧ t.cfg = s.cfg ∧
      ∀ rest', step { t with inputs := .cmdReset :: rest' } = .next { t with inputs := rest' }

/-- R401, with the command as the next input (log 8, 14): loadRom copies the bytes from 0x200 on and changes nothing
else; a load that does not fit changes no state of the block. -/
def Obligations.LoadRomCopiesOrRefuses : Prop :=
  ∀ (s : State) (bytes : List Byte) (rest : List HostInput), Memory.wf s.cfg s.mem = true → s.run = .stopped →
    s.inputs = .cmdLoadRom bytes :: rest →
      ∃ t, step s = .next t ∧ t.inputs = rest ∧
        (bytes.length + 0x200 ≤ 0x1000 →
          (∀ k, k < bytes.length → t.byteAt (0x200 + k) = bytes.getD k 0) ∧
          KeepsBytesOutside 0x200 bytes.length s t ∧ KeepsAllBut [.mem, .inputs] s t) ∧
        (0x1000 < bytes.length + 0x200 →
          t.outputs = s.outputs ++ [.romTooLarge bytes.length] ∧ KeepsAllBut [.inputs, .outputs] s t)

/-- R402 (log 8, 11): the host's order at boot, from any stopped state: the reset command, the quirk bits, the load,
`run()`. Four moves later the next move is a step of the first tick, at 0x200, with the bytes there and zero above
them, and every register at its reset value. -/
def Obligations.BootStartsTheLoadedProgram : Prop :=
  ∀ (s : State) (bytes : List Byte) (a b : Bool), s.run = .stopped → bytes.length + 0x200 ≤ 0x1000 →
    s.inputs = [.cmdReset, .setQuirks a b, .cmdLoadRom bytes, .cmdRun] →
      ∃ t, Sys2Proof.core.run 4 s = .next t ∧ StepStartsAt t t ∧ t.tickStep = 0 ∧ t.pc = 0x200 ∧
        t.loadStore = a ∧ t.shift = b ∧ (∀ k, k < bytes.length → t.byteAt (0x200 + k) = bytes.getD k 0) ∧
        (∀ k, 0x200 + bytes.length ≤ k → t.byteAt k = 0) ∧ (∀ r, t.readV r = 0) ∧ t.i = 0 ∧ t.sp = 0 ∧ t.dt = 0 ∧
        t.st = 0

/-- R340, R341, with slots in the state (log 10): saving changes no state of the block; and restoring the slot into
any later stopped state of the machine that still holds the snapshot gives the ten fields their saved values and
leaves the rest. -/
def Obligations.RestoreBringsBackTheSavedFields : Prop :=
  ∀ (s : State) (slot : Nat) (rest : List HostInput), s.active = false ∨ s.tickStep = 0 →
    s.inputs = .cmdSave slot :: rest →
    ∃ t, step s = .next t ∧ KeepsAllBut [.inputs, .slots] s t ∧
      ∀ (u : State) (rest' : List HostInput), u.slots = t.slots → u.run = .stopped →
        u.inputs = .cmdRestore slot :: rest' →
          step u = .next
            { u with
              inputs := rest'
              mem := s.mem, v := s.v, i := s.i, pc := s.pc, dt := s.dt, st := s.st
              redraw := s.redraw, screen := s.screen, stack := s.stack, sp := s.sp }

/-- R335, D22 (log 13): between two ticks, `run()`, the reset command, `loadRom` and a restore get no move while the
block is Running. -/
def Obligations.CommandsOutOfTurnGetNoMove : Prop :=
  ∀ (s : State) (c : HostInput) (rest : List HostInput), s.run = .running → s.tickStep = 0 →
    s.inputs = c :: rest →
      (c = .cmdRun ∨ c = .cmdReset ∨ (∃ bytes, c = .cmdLoadRom bytes) ∨ ∃ slot, c = .cmdRestore slot) →
        step s = .refused (.commandWhileRunning c)

/-- R26, R31, R33, R335, each as the next input (log 8): what `run()`, `stop()`, the key port and the quirk port do
between two ticks, and that a tick event finds a stopped block unmoved (R320). That `run()` writes `run` where a fault
is set too is the model's choice (log 12), and so is the record of a `stop()` (log 19); an already stopped block it
leaves as it is. -/
def Obligations.HostPortsWriteOnlyTheirFields : Prop :=
  ∀ (s : State) (rest : List HostInput), s.tickStep = 0 →
    (s.run = .stopped → s.inputs = .cmdRun :: rest →
      ∃ t, step s = .next t ∧ t.run = .running ∧ t.stopIssued = false ∧
        KeepsAllBut [.run, .stopIssued, .inputs] s t) ∧
    (s.inputs = .cmdStop :: rest → ∃ t, step s = .next t ∧ t.run = .stopped ∧
      (s.run = .running → t.stopIssued = true) ∧ (s.run = .stopped → t.stopIssued = s.stopIssued) ∧
        KeepsAllBut [.run, .stopIssued, .inputs] s t) ∧
    (∀ ks, s.inputs = .setKeys ks :: rest →
      ∃ t, step s = .next t ∧ t.keys = ks ∧ KeepsAllBut [.keys, .inputs] s t) ∧
    (∀ a b, s.inputs = .setQuirks a b :: rest →
      ∃ t, step s = .next t ∧ t.loadStore = a ∧ t.shift = b ∧ KeepsAllBut [.loadStore, .shift, .inputs] s t) ∧
    (s.run = .stopped → s.inputs = .tick :: rest → ∃ t, step s = .next t ∧ KeepsAllBut [.inputs] s t)

/-- R403 (c), with the record of a `stop()` (log 8, 19): a `stop()` that finds the block Running between two ticks,
without a fault, ends the run; a run that has ended so after a move had ended so before it, or that `stop()` was the
move; and what the rule calls not ended is not: a block waiting in FX0A, here any active block at an FX0A, and the
state after reset. -/
def Obligations.OnlyAnIssuedStopEndsTheRunByStop : Prop :=
  (∀ (s : State) (rest : List HostInput), s.run = .running → s.fault = none → s.tickStep = 0 →
    s.inputs = .cmdStop :: rest → ∃ t, step s = .next t ∧ EndedByStop t ∧ KeepsAllBut [.run, .stopIssued, .inputs] s t) ∧
  (∀ s t : State, step s = .next t → EndedByStop t →
    EndedByStop s ∨ (s.run = .running ∧ ∃ rest, s.inputs = .cmdStop :: rest)) ∧
  (∀ (s : State) (x : Reg), s.active = true → fetch s = .ok (encode (.ldVxK x)) → ¬ Ended s) ∧
  ¬ Ended State.reset
end

