-- ==== Sys2Proof/Laws/Decode.lean ====
section
/-! SUPPORT. The fields of a packed word, and the two bytes of a word: what decoding and encoding rest on. -/

namespace Sys2Proof

theorem bits_eq (hi lo : Nat) (v : Word) : bits hi lo v = v.toNat / 2 ^ lo % 2 ^ (hi + 1 - lo) := rfl

theorem toNat_packXYN {major n : Nat} (hm : major < 16) (hn : n < 16) (x y : Reg) :
    (packXYN major x y n).toNat = major * 0x1000 + x.val * 0x100 + y.val * 0x10 + n := by
  have := x.isLt; have := y.isLt
  simp only [packXYN, BitVec.toNat_ofNat]; omega

theorem toNat_packXNN {major nn : Nat} (hm : major < 16) (hn : nn < 256) (x : Reg) :
    (packXNN major x nn).toNat = major * 0x1000 + x.val * 0x100 + nn := by
  have := x.isLt
  simp only [packXNN, BitVec.toNat_ofNat]; omega

theorem toNat_packNNN {major : Nat} {nnn : Word} (hm : major < 16) (hn : nnn.toNat < 0x1000) :
    (packNNN major nnn).toNat = major * 0x1000 + nnn.toNat := by
  simp only [packNNN, BitVec.toNat_ofNat]; omega

section XYN
variable {major n : Nat} (hm : major < 16) (hn : n < 16) (x y : Reg)
include hm hn

theorem major_packXYN : bits 15 12 (packXYN major x y n) = major := by
  have := x.isLt; have := y.isLt
  rw [bits_eq, toNat_packXYN hm hn]; omega

theorem fieldX_packXYN : fieldX (packXYN major x y n) = x := by
  have := x.isLt; have := y.isLt
  apply Fin.ext
  simp only [fieldX, regAt, toNat_packXYN hm hn]; omega

theorem fieldY_packXYN : fieldY (packXYN major x y n) = y := by
  have := x.isLt; have := y.isLt
  apply Fin.ext
  simp only [fieldY, regAt, toNat_packXYN hm hn]; omega

theorem fieldN_packXYN : fieldN (packXYN major x y n) = n := by
  have := x.isLt; have := y.isLt
  rw [fieldN, bits_eq, toNat_packXYN hm hn]; omega

end XYN

section XNN
variable {major nn : Nat} (hm : major < 16) (hn : nn < 256) (x : Reg)
include hm hn

theorem major_packXNN : bits 15 12 (packXNN major x nn) = major := by
  have := x.isLt
  rw [bits_eq, toNat_packXNN hm hn]; omega

theorem fieldX_packXNN : fieldX (packXNN major x nn) = x := by
  have := x.isLt
  apply Fin.ext
  simp only [fieldX, regAt, toNat_packXNN hm hn]; omega

theorem low_packXNN : bits 7 0 (packXNN major x nn) = nn := by
  have := x.isLt
  rw [bits_eq, toNat_packXNN hm hn]; omega

end XNN

theorem fieldNN_packXNN {major : Nat} (hm : major < 16) (x : Reg) (nn : Byte) :
    fieldNN (packXNN major x nn.toNat) = nn := by
  rw [fieldNN, low_packXNN hm nn.isLt]; simp

section NNN
variable {major : Nat} {nnn : Word} (hm : major < 16) (hn : nnn.toNat < 0x1000)
include hm hn

theorem major_packNNN : bits 15 12 (packNNN major nnn) = major := by
  rw [bits_eq, toNat_packNNN hm hn]; omega

theorem fieldNNN_packNNN : fieldNNN (packNNN major nnn) = nnn := by
  have : bits 11 0 (packNNN major nnn) = nnn.toNat := by rw [bits_eq, toNat_packNNN hm hn]; omega
  rw [fieldNNN, this]; simp

end NNN

/-- A word is its two bytes, high byte first (R64, R65). -/
@[simp] theorem wordOfBytes_bytes (op : Word) : wordOfBytes (highByte op) (lowByte op) = op := by
  apply BitVec.eq_of_toNat_eq
  have := op.isLt
  simp only [wordOfBytes, highByte, lowByte, bits_eq, BitVec.toNat_ofNat]; omega

/-- The bytes of a word are the bytes it is made of. -/
@[simp] theorem highByte_wordOfBytes (hi lo : Byte) : highByte (wordOfBytes hi lo) = hi := by
  apply BitVec.eq_of_toNat_eq
  have := hi.isLt; have := lo.isLt
  simp only [wordOfBytes, highByte, bits_eq, BitVec.toNat_ofNat]; omega

@[simp] theorem lowByte_wordOfBytes (hi lo : Byte) : lowByte (wordOfBytes hi lo) = lo := by
  apply BitVec.eq_of_toNat_eq
  have := hi.isLt; have := lo.isLt
  simp only [wordOfBytes, lowByte, bits_eq, BitVec.toNat_ofNat]; omega

/-- A rejected word is rejected by its own name: the decoder reads both bytes it needs. -/
theorem decode_error {op : Word} {e : Reject} (h : decode op = .error e) : e = .unknownOpcode op := by
  unfold decode at h
  split at h <;> first
    | cases h
    | (first | unfold decodeFixed at h | unfold decodeAlu at h | unfold decodeKey at h | unfold decodeMisc at h
       split at h <;> cases h
       rfl)

end Sys2Proof
end

