-- ==== Sys2Proof/Laws/State.lean ====
section
/-! SUPPORT. One lemma per field per update of the state, so that no later proof unfolds a record update, and the
read accessors over the updates. -/

namespace Sys2Proof.Machine

variable (s : State)

/-! ### setV -/

@[simp] theorem State.setV_cfg (x : Reg) (b : Byte) : (s.setV x b).cfg = s.cfg := rfl
@[simp] theorem State.setV_v (x : Reg) (b : Byte) : (s.setV x b).v = s.v.set x.val b := rfl
@[simp] theorem State.setV_i (x : Reg) (b : Byte) : (s.setV x b).i = s.i := rfl
@[simp] theorem State.setV_pc (x : Reg) (b : Byte) : (s.setV x b).pc = s.pc := rfl
@[simp] theorem State.setV_stack (x : Reg) (b : Byte) : (s.setV x b).stack = s.stack := rfl
@[simp] theorem State.setV_sp (x : Reg) (b : Byte) : (s.setV x b).sp = s.sp := rfl
@[simp] theorem State.setV_dt (x : Reg) (b : Byte) : (s.setV x b).dt = s.dt := rfl
@[simp] theorem State.setV_st (x : Reg) (b : Byte) : (s.setV x b).st = s.st := rfl
@[simp] theorem State.setV_screen (x : Reg) (b : Byte) : (s.setV x b).screen = s.screen := rfl
@[simp] theorem State.setV_redraw (x : Reg) (b : Byte) : (s.setV x b).redraw = s.redraw := rfl
@[simp] theorem State.setV_keys (x : Reg) (b : Byte) : (s.setV x b).keys = s.keys := rfl
@[simp] theorem State.setV_loadStore (x : Reg) (b : Byte) : (s.setV x b).loadStore = s.loadStore := rfl
@[simp] theorem State.setV_shift (x : Reg) (b : Byte) : (s.setV x b).shift = s.shift := rfl
@[simp] theorem State.setV_mem (x : Reg) (b : Byte) : (s.setV x b).mem = s.mem := rfl
@[simp] theorem State.setV_cycleCounter (x : Reg) (b : Byte) : (s.setV x b).cycleCounter = s.cycleCounter := rfl
@[simp] theorem State.setV_stepCounter (x : Reg) (b : Byte) : (s.setV x b).stepCounter = s.stepCounter := rfl
@[simp] theorem State.setV_run (x : Reg) (b : Byte) : (s.setV x b).run = s.run := rfl
@[simp] theorem State.setV_stopIssued (x : Reg) (b : Byte) : (s.setV x b).stopIssued = s.stopIssued := rfl
@[simp] theorem State.setV_fault (x : Reg) (b : Byte) : (s.setV x b).fault = s.fault := rfl
@[simp] theorem State.setV_tickStep (x : Reg) (b : Byte) : (s.setV x b).tickStep = s.tickStep := rfl
@[simp] theorem State.setV_inputs (x : Reg) (b : Byte) : (s.setV x b).inputs = s.inputs := rfl
@[simp] theorem State.setV_outputs (x : Reg) (b : Byte) : (s.setV x b).outputs = s.outputs := rfl
@[simp] theorem State.setV_slots (x : Reg) (b : Byte) : (s.setV x b).slots = s.slots := rfl
@[simp] theorem State.setV_draws (x : Reg) (b : Byte) : (s.setV x b).draws = s.draws := rfl
@[simp] theorem State.setV_stackAt (x : Reg) (b : Byte) (j : Fin 16) : (s.setV x b).stackAt j = s.stackAt j := rfl
@[simp] theorem State.setV_byteAt (x : Reg) (b : Byte) (n : Nat) : (s.setV x b).byteAt n = s.byteAt n := rfl

/-! ### setI -/

@[simp] theorem State.setI_cfg (a : Word) : (s.setI a).cfg = s.cfg := rfl
@[simp] theorem State.setI_v (a : Word) : (s.setI a).v = s.v := rfl
@[simp] theorem State.setI_i (a : Word) : (s.setI a).i = a := rfl
@[simp] theorem State.setI_pc (a : Word) : (s.setI a).pc = s.pc := rfl
@[simp] theorem State.setI_stack (a : Word) : (s.setI a).stack = s.stack := rfl
@[simp] theorem State.setI_sp (a : Word) : (s.setI a).sp = s.sp := rfl
@[simp] theorem State.setI_dt (a : Word) : (s.setI a).dt = s.dt := rfl
@[simp] theorem State.setI_st (a : Word) : (s.setI a).st = s.st := rfl
@[simp] theorem State.setI_screen (a : Word) : (s.setI a).screen = s.screen := rfl
@[simp] theorem State.setI_redraw (a : Word) : (s.setI a).redraw = s.redraw := rfl
@[simp] theorem State.setI_keys (a : Word) : (s.setI a).keys = s.keys := rfl
@[simp] theorem State.setI_loadStore (a : Word) : (s.setI a).loadStore = s.loadStore := rfl
@[simp] theorem State.setI_shift (a : Word) : (s.setI a).shift = s.shift := rfl
@[simp] theorem State.setI_mem (a : Word) : (s.setI a).mem = s.mem := rfl
@[simp] theorem State.setI_cycleCounter (a : Word) : (s.setI a).cycleCounter = s.cycleCounter := rfl
@[simp] theorem State.setI_stepCounter (a : Word) : (s.setI a).stepCounter = s.stepCounter := rfl
@[simp] theorem State.setI_run (a : Word) : (s.setI a).run = s.run := rfl
@[simp] theorem State.setI_stopIssued (a : Word) : (s.setI a).stopIssued = s.stopIssued := rfl
@[simp] theorem State.setI_fault (a : Word) : (s.setI a).fault = s.fault := rfl
@[simp] theorem State.setI_tickStep (a : Word) : (s.setI a).tickStep = s.tickStep := rfl
@[simp] theorem State.setI_inputs (a : Word) : (s.setI a).inputs = s.inputs := rfl
@[simp] theorem State.setI_outputs (a : Word) : (s.setI a).outputs = s.outputs := rfl
@[simp] theorem State.setI_slots (a : Word) : (s.setI a).slots = s.slots := rfl
@[simp] theorem State.setI_draws (a : Word) : (s.setI a).draws = s.draws := rfl
@[simp] theorem State.setI_readV (a : Word) (r : Reg) : (s.setI a).readV r = s.readV r := rfl
@[simp] theorem State.setI_stackAt (a : Word) (j : Fin 16) : (s.setI a).stackAt j = s.stackAt j := rfl
@[simp] theorem State.setI_byteAt (a : Word) (n : Nat) : (s.setI a).byteAt n = s.byteAt n := rfl

/-! ### setPc -/

@[simp] theorem State.setPc_cfg (a : Word) : (s.setPc a).cfg = s.cfg := rfl
@[simp] theorem State.setPc_v (a : Word) : (s.setPc a).v = s.v := rfl
@[simp] theorem State.setPc_i (a : Word) : (s.setPc a).i = s.i := rfl
@[simp] theorem State.setPc_pc (a : Word) : (s.setPc a).pc = a := rfl
@[simp] theorem State.setPc_stack (a : Word) : (s.setPc a).stack = s.stack := rfl
@[simp] theorem State.setPc_sp (a : Word) : (s.setPc a).sp = s.sp := rfl
@[simp] theorem State.setPc_dt (a : Word) : (s.setPc a).dt = s.dt := rfl
@[simp] theorem State.setPc_st (a : Word) : (s.setPc a).st = s.st := rfl
@[simp] theorem State.setPc_screen (a : Word) : (s.setPc a).screen = s.screen := rfl
@[simp] theorem State.setPc_redraw (a : Word) : (s.setPc a).redraw = s.redraw := rfl
@[simp] theorem State.setPc_keys (a : Word) : (s.setPc a).keys = s.keys := rfl
@[simp] theorem State.setPc_loadStore (a : Word) : (s.setPc a).loadStore = s.loadStore := rfl
@[simp] theorem State.setPc_shift (a : Word) : (s.setPc a).shift = s.shift := rfl
@[simp] theorem State.setPc_mem (a : Word) : (s.setPc a).mem = s.mem := rfl
@[simp] theorem State.setPc_cycleCounter (a : Word) : (s.setPc a).cycleCounter = s.cycleCounter := rfl
@[simp] theorem State.setPc_stepCounter (a : Word) : (s.setPc a).stepCounter = s.stepCounter := rfl
@[simp] theorem State.setPc_run (a : Word) : (s.setPc a).run = s.run := rfl
@[simp] theorem State.setPc_stopIssued (a : Word) : (s.setPc a).stopIssued = s.stopIssued := rfl
@[simp] theorem State.setPc_fault (a : Word) : (s.setPc a).fault = s.fault := rfl
@[simp] theorem State.setPc_tickStep (a : Word) : (s.setPc a).tickStep = s.tickStep := rfl
@[simp] theorem State.setPc_inputs (a : Word) : (s.setPc a).inputs = s.inputs := rfl
@[simp] theorem State.setPc_outputs (a : Word) : (s.setPc a).outputs = s.outputs := rfl
@[simp] theorem State.setPc_slots (a : Word) : (s.setPc a).slots = s.slots := rfl
@[simp] theorem State.setPc_draws (a : Word) : (s.setPc a).draws = s.draws := rfl
@[simp] theorem State.setPc_readV (a : Word) (r : Reg) : (s.setPc a).readV r = s.readV r := rfl
@[simp] theorem State.setPc_stackAt (a : Word) (j : Fin 16) : (s.setPc a).stackAt j = s.stackAt j := rfl
@[simp] theorem State.setPc_byteAt (a : Word) (n : Nat) : (s.setPc a).byteAt n = s.byteAt n := rfl

/-! ### setDt -/

@[simp] theorem State.setDt_cfg (b : Byte) : (s.setDt b).cfg = s.cfg := rfl
@[simp] theorem State.setDt_v (b : Byte) : (s.setDt b).v = s.v := rfl
@[simp] theorem State.setDt_i (b : Byte) : (s.setDt b).i = s.i := rfl
@[simp] theorem State.setDt_pc (b : Byte) : (s.setDt b).pc = s.pc := rfl
@[simp] theorem State.setDt_stack (b : Byte) : (s.setDt b).stack = s.stack := rfl
@[simp] theorem State.setDt_sp (b : Byte) : (s.setDt b).sp = s.sp := rfl
@[simp] theorem State.setDt_dt (b : Byte) : (s.setDt b).dt = b := rfl
@[simp] theorem State.setDt_st (b : Byte) : (s.setDt b).st = s.st := rfl
@[simp] theorem State.setDt_screen (b : Byte) : (s.setDt b).screen = s.screen := rfl
@[simp] theorem State.setDt_redraw (b : Byte) : (s.setDt b).redraw = s.redraw := rfl
@[simp] theorem State.setDt_keys (b : Byte) : (s.setDt b).keys = s.keys := rfl
@[simp] theorem State.setDt_loadStore (b : Byte) : (s.setDt b).loadStore = s.loadStore := rfl
@[simp] theorem State.setDt_shift (b : Byte) : (s.setDt b).shift = s.shift := rfl
@[simp] theorem State.setDt_mem (b : Byte) : (s.setDt b).mem = s.mem := rfl
@[simp] theorem State.setDt_cycleCounter (b : Byte) : (s.setDt b).cycleCounter = s.cycleCounter := rfl
@[simp] theorem State.setDt_stepCounter (b : Byte) : (s.setDt b).stepCounter = s.stepCounter := rfl
@[simp] theorem State.setDt_run (b : Byte) : (s.setDt b).run = s.run := rfl
@[simp] theorem State.setDt_stopIssued (b : Byte) : (s.setDt b).stopIssued = s.stopIssued := rfl
@[simp] theorem State.setDt_fault (b : Byte) : (s.setDt b).fault = s.fault := rfl
@[simp] theorem State.setDt_tickStep (b : Byte) : (s.setDt b).tickStep = s.tickStep := rfl
@[simp] theorem State.setDt_inputs (b : Byte) : (s.setDt b).inputs = s.inputs := rfl
@[simp] theorem State.setDt_outputs (b : Byte) : (s.setDt b).outputs = s.outputs := rfl
@[simp] theorem State.setDt_slots (b : Byte) : (s.setDt b).slots = s.slots := rfl
@[simp] theorem State.setDt_draws (b : Byte) : (s.setDt b).draws = s.draws := rfl
@[simp] theorem State.setDt_readV (b : Byte) (r : Reg) : (s.setDt b).readV r = s.readV r := rfl
@[simp] theorem State.setDt_stackAt (b : Byte) (j : Fin 16) : (s.setDt b).stackAt j = s.stackAt j := rfl
@[simp] theorem State.setDt_byteAt (b : Byte) (n : Nat) : (s.setDt b).byteAt n = s.byteAt n := rfl

/-! ### setSt -/

@[simp] theorem State.setSt_cfg (b : Byte) : (s.setSt b).cfg = s.cfg := rfl
@[simp] theorem State.setSt_v (b : Byte) : (s.setSt b).v = s.v := rfl
@[simp] theorem State.setSt_i (b : Byte) : (s.setSt b).i = s.i := rfl
@[simp] theorem State.setSt_pc (b : Byte) : (s.setSt b).pc = s.pc := rfl
@[simp] theorem State.setSt_stack (b : Byte) : (s.setSt b).stack = s.stack := rfl
@[simp] theorem State.setSt_sp (b : Byte) : (s.setSt b).sp = s.sp := rfl
@[simp] theorem State.setSt_dt (b : Byte) : (s.setSt b).dt = s.dt := rfl
@[simp] theorem State.setSt_st (b : Byte) : (s.setSt b).st = b := rfl
@[simp] theorem State.setSt_screen (b : Byte) : (s.setSt b).screen = s.screen := rfl
@[simp] theorem State.setSt_redraw (b : Byte) : (s.setSt b).redraw = s.redraw := rfl
@[simp] theorem State.setSt_keys (b : Byte) : (s.setSt b).keys = s.keys := rfl
@[simp] theorem State.setSt_loadStore (b : Byte) : (s.setSt b).loadStore = s.loadStore := rfl
@[simp] theorem State.setSt_shift (b : Byte) : (s.setSt b).shift = s.shift := rfl
@[simp] theorem State.setSt_mem (b : Byte) : (s.setSt b).mem = s.mem := rfl
@[simp] theorem State.setSt_cycleCounter (b : Byte) : (s.setSt b).cycleCounter = s.cycleCounter := rfl
@[simp] theorem State.setSt_stepCounter (b : Byte) : (s.setSt b).stepCounter = s.stepCounter := rfl
@[simp] theorem State.setSt_run (b : Byte) : (s.setSt b).run = s.run := rfl
@[simp] theorem State.setSt_stopIssued (b : Byte) : (s.setSt b).stopIssued = s.stopIssued := rfl
@[simp] theorem State.setSt_fault (b : Byte) : (s.setSt b).fault = s.fault := rfl
@[simp] theorem State.setSt_tickStep (b : Byte) : (s.setSt b).tickStep = s.tickStep := rfl
@[simp] theorem State.setSt_inputs (b : Byte) : (s.setSt b).inputs = s.inputs := rfl
@[simp] theorem State.setSt_outputs (b : Byte) : (s.setSt b).outputs = s.outputs := rfl
@[simp] theorem State.setSt_slots (b : Byte) : (s.setSt b).slots = s.slots := rfl
@[simp] theorem State.setSt_draws (b : Byte) : (s.setSt b).draws = s.draws := rfl
@[simp] theorem State.setSt_readV (b : Byte) (r : Reg) : (s.setSt b).readV r = s.readV r := rfl
@[simp] theorem State.setSt_stackAt (b : Byte) (j : Fin 16) : (s.setSt b).stackAt j = s.stackAt j := rfl
@[simp] theorem State.setSt_byteAt (b : Byte) (n : Nat) : (s.setSt b).byteAt n = s.byteAt n := rfl

/-! ### advancePc -/

@[simp] theorem State.advancePc_cfg : s.advancePc.cfg = s.cfg := rfl
@[simp] theorem State.advancePc_v : s.advancePc.v = s.v := rfl
@[simp] theorem State.advancePc_i : s.advancePc.i = s.i := rfl
@[simp] theorem State.advancePc_pc : s.advancePc.pc = mask12 (s.pc.toNat + 2) := rfl
@[simp] theorem State.advancePc_stack : s.advancePc.stack = s.stack := rfl
@[simp] theorem State.advancePc_sp : s.advancePc.sp = s.sp := rfl
@[simp] theorem State.advancePc_dt : s.advancePc.dt = s.dt := rfl
@[simp] theorem State.advancePc_st : s.advancePc.st = s.st := rfl
@[simp] theorem State.advancePc_screen : s.advancePc.screen = s.screen := rfl
@[simp] theorem State.advancePc_redraw : s.advancePc.redraw = s.redraw := rfl
@[simp] theorem State.advancePc_keys : s.advancePc.keys = s.keys := rfl
@[simp] theorem State.advancePc_loadStore : s.advancePc.loadStore = s.loadStore := rfl
@[simp] theorem State.advancePc_shift : s.advancePc.shift = s.shift := rfl
@[simp] theorem State.advancePc_mem : s.advancePc.mem = s.mem := rfl
@[simp] theorem State.advancePc_cycleCounter : s.advancePc.cycleCounter = s.cycleCounter := rfl
@[simp] theorem State.advancePc_stepCounter : s.advancePc.stepCounter = s.stepCounter := rfl
@[simp] theorem State.advancePc_run : s.advancePc.run = s.run := rfl
@[simp] theorem State.advancePc_stopIssued : s.advancePc.stopIssued = s.stopIssued := rfl
@[simp] theorem State.advancePc_fault : s.advancePc.fault = s.fault := rfl
@[simp] theorem State.advancePc_tickStep : s.advancePc.tickStep = s.tickStep := rfl
@[simp] theorem State.advancePc_inputs : s.advancePc.inputs = s.inputs := rfl
@[simp] theorem State.advancePc_outputs : s.advancePc.outputs = s.outputs := rfl
@[simp] theorem State.advancePc_slots : s.advancePc.slots = s.slots := rfl
@[simp] theorem State.advancePc_draws : s.advancePc.draws = s.draws := rfl
@[simp] theorem State.advancePc_readV (r : Reg) : s.advancePc.readV r = s.readV r := rfl
@[simp] theorem State.advancePc_stackAt (j : Fin 16) : s.advancePc.stackAt j = s.stackAt j := rfl
@[simp] theorem State.advancePc_byteAt (n : Nat) : s.advancePc.byteAt n = s.byteAt n := rfl

/-! ### setLowV -/

@[simp] theorem State.setLowV_cfg (bs : List Byte) : (s.setLowV bs).cfg = s.cfg := rfl
@[simp] theorem State.setLowV_v (bs : List Byte) : (s.setLowV bs).v = Vector.ofFn (fun k : Fin 16 => bs.getD k.val s.v[k.val]) := rfl
@[simp] theorem State.setLowV_i (bs : List Byte) : (s.setLowV bs).i = s.i := rfl
@[simp] theorem State.setLowV_pc (bs : List Byte) : (s.setLowV bs).pc = s.pc := rfl
@[simp] theorem State.setLowV_stack (bs : List Byte) : (s.setLowV bs).stack = s.stack := rfl
@[simp] theorem State.setLowV_sp (bs : List Byte) : (s.setLowV bs).sp = s.sp := rfl
@[simp] theorem State.setLowV_dt (bs : List Byte) : (s.setLowV bs).dt = s.dt := rfl
@[simp] theorem State.setLowV_st (bs : List Byte) : (s.setLowV bs).st = s.st := rfl
@[simp] theorem State.setLowV_screen (bs : List Byte) : (s.setLowV bs).screen = s.screen := rfl
@[simp] theorem State.setLowV_redraw (bs : List Byte) : (s.setLowV bs).redraw = s.redraw := rfl
@[simp] theorem State.setLowV_keys (bs : List Byte) : (s.setLowV bs).keys = s.keys := rfl
@[simp] theorem State.setLowV_loadStore (bs : List Byte) : (s.setLowV bs).loadStore = s.loadStore := rfl
@[simp] theorem State.setLowV_shift (bs : List Byte) : (s.setLowV bs).shift = s.shift := rfl
@[simp] theorem State.setLowV_mem (bs : List Byte) : (s.setLowV bs).mem = s.mem := rfl
@[simp] theorem State.setLowV_cycleCounter (bs : List Byte) : (s.setLowV bs).cycleCounter = s.cycleCounter := rfl
@[simp] theorem State.setLowV_stepCounter (bs : List Byte) : (s.setLowV bs).stepCounter = s.stepCounter := rfl
@[simp] theorem State.setLowV_run (bs : List Byte) : (s.setLowV bs).run = s.run := rfl
@[simp] theorem State.setLowV_stopIssued (bs : List Byte) : (s.setLowV bs).stopIssued = s.stopIssued := rfl
@[simp] theorem State.setLowV_fault (bs : List Byte) : (s.setLowV bs).fault = s.fault := rfl
@[simp] theorem State.setLowV_tickStep (bs : List Byte) : (s.setLowV bs).tickStep = s.tickStep := rfl
@[simp] theorem State.setLowV_inputs (bs : List Byte) : (s.setLowV bs).inputs = s.inputs := rfl
@[simp] theorem State.setLowV_outputs (bs : List Byte) : (s.setLowV bs).outputs = s.outputs := rfl
@[simp] theorem State.setLowV_slots (bs : List Byte) : (s.setLowV bs).slots = s.slots := rfl
@[simp] theorem State.setLowV_draws (bs : List Byte) : (s.setLowV bs).draws = s.draws := rfl
@[simp] theorem State.setLowV_stackAt (bs : List Byte) (j : Fin 16) : (s.setLowV bs).stackAt j = s.stackAt j := rfl
@[simp] theorem State.setLowV_byteAt (bs : List Byte) (n : Nat) : (s.setLowV bs).byteAt n = s.byteAt n := rfl

/-! ### setMem -/

@[simp] theorem State.setMem_cfg (m : Memory) : (s.setMem m).cfg = s.cfg := rfl
@[simp] theorem State.setMem_v (m : Memory) : (s.setMem m).v = s.v := rfl
@[simp] theorem State.setMem_i (m : Memory) : (s.setMem m).i = s.i := rfl
@[simp] theorem State.setMem_pc (m : Memory) : (s.setMem m).pc = s.pc := rfl
@[simp] theorem State.setMem_stack (m : Memory) : (s.setMem m).stack = s.stack := rfl
@[simp] theorem State.setMem_sp (m : Memory) : (s.setMem m).sp = s.sp := rfl
@[simp] theorem State.setMem_dt (m : Memory) : (s.setMem m).dt = s.dt := rfl
@[simp] theorem State.setMem_st (m : Memory) : (s.setMem m).st = s.st := rfl
@[simp] theorem State.setMem_screen (m : Memory) : (s.setMem m).screen = s.screen := rfl
@[simp] theorem State.setMem_redraw (m : Memory) : (s.setMem m).redraw = s.redraw := rfl
@[simp] theorem State.setMem_keys (m : Memory) : (s.setMem m).keys = s.keys := rfl
@[simp] theorem State.setMem_loadStore (m : Memory) : (s.setMem m).loadStore = s.loadStore := rfl
@[simp] theorem State.setMem_shift (m : Memory) : (s.setMem m).shift = s.shift := rfl
@[simp] theorem State.setMem_mem (m : Memory) : (s.setMem m).mem = m := rfl
@[simp] theorem State.setMem_cycleCounter (m : Memory) : (s.setMem m).cycleCounter = s.cycleCounter := rfl
@[simp] theorem State.setMem_stepCounter (m : Memory) : (s.setMem m).stepCounter = s.stepCounter := rfl
@[simp] theorem State.setMem_run (m : Memory) : (s.setMem m).run = s.run := rfl
@[simp] theorem State.setMem_stopIssued (m : Memory) : (s.setMem m).stopIssued = s.stopIssued := rfl
@[simp] theorem State.setMem_fault (m : Memory) : (s.setMem m).fault = s.fault := rfl
@[simp] theorem State.setMem_tickStep (m : Memory) : (s.setMem m).tickStep = s.tickStep := rfl
@[simp] theorem State.setMem_inputs (m : Memory) : (s.setMem m).inputs = s.inputs := rfl
@[simp] theorem State.setMem_outputs (m : Memory) : (s.setMem m).outputs = s.outputs := rfl
@[simp] theorem State.setMem_slots (m : Memory) : (s.setMem m).slots = s.slots := rfl
@[simp] theorem State.setMem_draws (m : Memory) : (s.setMem m).draws = s.draws := rfl
@[simp] theorem State.setMem_readV (m : Memory) (r : Reg) : (s.setMem m).readV r = s.readV r := rfl
@[simp] theorem State.setMem_stackAt (m : Memory) (j : Fin 16) : (s.setMem m).stackAt j = s.stackAt j := rfl

/-! ### countDraw -/

@[simp] theorem State.countDraw_cfg : s.countDraw.cfg = s.cfg := rfl
@[simp] theorem State.countDraw_v : s.countDraw.v = s.v := rfl
@[simp] theorem State.countDraw_i : s.countDraw.i = s.i := rfl
@[simp] theorem State.countDraw_pc : s.countDraw.pc = s.pc := rfl
@[simp] theorem State.countDraw_stack : s.countDraw.stack = s.stack := rfl
@[simp] theorem State.countDraw_sp : s.countDraw.sp = s.sp := rfl
@[simp] theorem State.countDraw_dt : s.countDraw.dt = s.dt := rfl
@[simp] theorem State.countDraw_st : s.countDraw.st = s.st := rfl
@[simp] theorem State.countDraw_screen : s.countDraw.screen = s.screen := rfl
@[simp] theorem State.countDraw_redraw : s.countDraw.redraw = s.redraw := rfl
@[simp] theorem State.countDraw_keys : s.countDraw.keys = s.keys := rfl
@[simp] theorem State.countDraw_loadStore : s.countDraw.loadStore = s.loadStore := rfl
@[simp] theorem State.countDraw_shift : s.countDraw.shift = s.shift := rfl
@[simp] theorem State.countDraw_mem : s.countDraw.mem = s.mem := rfl
@[simp] theorem State.countDraw_cycleCounter : s.countDraw.cycleCounter = s.cycleCounter := rfl
@[simp] theorem State.countDraw_stepCounter : s.countDraw.stepCounter = s.stepCounter := rfl
@[simp] theorem State.countDraw_run : s.countDraw.run = s.run := rfl
@[simp] theorem State.countDraw_stopIssued : s.countDraw.stopIssued = s.stopIssued := rfl
@[simp] theorem State.countDraw_fault : s.countDraw.fault = s.fault := rfl
@[simp] theorem State.countDraw_tickStep : s.countDraw.tickStep = s.tickStep := rfl
@[simp] theorem State.countDraw_inputs : s.countDraw.inputs = s.inputs := rfl
@[simp] theorem State.countDraw_outputs : s.countDraw.outputs = s.outputs := rfl
@[simp] theorem State.countDraw_slots : s.countDraw.slots = s.slots := rfl
@[simp] theorem State.countDraw_draws : s.countDraw.draws = s.draws + 1 := rfl
@[simp] theorem State.countDraw_readV (r : Reg) : s.countDraw.readV r = s.readV r := rfl
@[simp] theorem State.countDraw_stackAt (j : Fin 16) : s.countDraw.stackAt j = s.stackAt j := rfl
@[simp] theorem State.countDraw_byteAt (n : Nat) : s.countDraw.byteAt n = s.byteAt n := rfl

/-! ### push -/

@[simp] theorem State.push_cfg (a : Word) : (s.push a).cfg = s.cfg := rfl
@[simp] theorem State.push_v (a : Word) : (s.push a).v = s.v := rfl
@[simp] theorem State.push_i (a : Word) : (s.push a).i = s.i := rfl
@[simp] theorem State.push_pc (a : Word) : (s.push a).pc = s.pc := rfl
@[simp] theorem State.push_stack (a : Word) : (s.push a).stack = s.stack.set s.sp.val a := rfl
@[simp] theorem State.push_sp (a : Word) : (s.push a).sp = spUp s.sp := rfl
@[simp] theorem State.push_dt (a : Word) : (s.push a).dt = s.dt := rfl
@[simp] theorem State.push_st (a : Word) : (s.push a).st = s.st := rfl
@[simp] theorem State.push_screen (a : Word) : (s.push a).screen = s.screen := rfl
@[simp] theorem State.push_redraw (a : Word) : (s.push a).redraw = s.redraw := rfl
@[simp] theorem State.push_keys (a : Word) : (s.push a).keys = s.keys := rfl
@[simp] theorem State.push_loadStore (a : Word) : (s.push a).loadStore = s.loadStore := rfl
@[simp] theorem State.push_shift (a : Word) : (s.push a).shift = s.shift := rfl
@[simp] theorem State.push_mem (a : Word) : (s.push a).mem = s.mem := rfl
@[simp] theorem State.push_cycleCounter (a : Word) : (s.push a).cycleCounter = s.cycleCounter := rfl
@[simp] theorem State.push_stepCounter (a : Word) : (s.push a).stepCounter = s.stepCounter := rfl
@[simp] theorem State.push_run (a : Word) : (s.push a).run = s.run := rfl
@[simp] theorem State.push_stopIssued (a : Word) : (s.push a).stopIssued = s.stopIssued := rfl
@[simp] theorem State.push_fault (a : Word) : (s.push a).fault = s.fault := rfl
@[simp] theorem State.push_tickStep (a : Word) : (s.push a).tickStep = s.tickStep := rfl
@[simp] theorem State.push_inputs (a : Word) : (s.push a).inputs = s.inputs := rfl
@[simp] theorem State.push_outputs (a : Word) : (s.push a).outputs = s.outputs := rfl
@[simp] theorem State.push_slots (a : Word) : (s.push a).slots = s.slots := rfl
@[simp] theorem State.push_draws (a : Word) : (s.push a).draws = s.draws := rfl
@[simp] theorem State.push_readV (a : Word) (r : Reg) : (s.push a).readV r = s.readV r := rfl
@[simp] theorem State.push_byteAt (a : Word) (n : Nat) : (s.push a).byteAt n = s.byteAt n := rfl

/-! ### pop -/

@[simp] theorem State.pop_cfg : s.pop.cfg = s.cfg := rfl
@[simp] theorem State.pop_v : s.pop.v = s.v := rfl
@[simp] theorem State.pop_i : s.pop.i = s.i := rfl
@[simp] theorem State.pop_pc : s.pop.pc = s.pc := rfl
@[simp] theorem State.pop_stack : s.pop.stack = s.stack := rfl
@[simp] theorem State.pop_sp : s.pop.sp = spDown s.sp := rfl
@[simp] theorem State.pop_dt : s.pop.dt = s.dt := rfl
@[simp] theorem State.pop_st : s.pop.st = s.st := rfl
@[simp] theorem State.pop_screen : s.pop.screen = s.screen := rfl
@[simp] theorem State.pop_redraw : s.pop.redraw = s.redraw := rfl
@[simp] theorem State.pop_keys : s.pop.keys = s.keys := rfl
@[simp] theorem State.pop_loadStore : s.pop.loadStore = s.loadStore := rfl
@[simp] theorem State.pop_shift : s.pop.shift = s.shift := rfl
@[simp] theorem State.pop_mem : s.pop.mem = s.mem := rfl
@[simp] theorem State.pop_cycleCounter : s.pop.cycleCounter = s.cycleCounter := rfl
@[simp] theorem State.pop_stepCounter : s.pop.stepCounter = s.stepCounter := rfl
@[simp] theorem State.pop_run : s.pop.run = s.run := rfl
@[simp] theorem State.pop_stopIssued : s.pop.stopIssued = s.stopIssued := rfl
@[simp] theorem State.pop_fault : s.pop.fault = s.fault := rfl
@[simp] theorem State.pop_tickStep : s.pop.tickStep = s.tickStep := rfl
@[simp] theorem State.pop_inputs : s.pop.inputs = s.inputs := rfl
@[simp] theorem State.pop_outputs : s.pop.outputs = s.outputs := rfl
@[simp] theorem State.pop_slots : s.pop.slots = s.slots := rfl
@[simp] theorem State.pop_draws : s.pop.draws = s.draws := rfl
@[simp] theorem State.pop_readV (r : Reg) : s.pop.readV r = s.readV r := rfl
@[simp] theorem State.pop_stackAt (j : Fin 16) : s.pop.stackAt j = s.stackAt j := rfl
@[simp] theorem State.pop_byteAt (n : Nat) : s.pop.byteAt n = s.byteAt n := rfl

/-! ### showScreen -/

@[simp] theorem State.showScreen_cfg (scr : Screen) : (s.showScreen scr).cfg = s.cfg := rfl
@[simp] theorem State.showScreen_v (scr : Screen) : (s.showScreen scr).v = s.v := rfl
@[simp] theorem State.showScreen_i (scr : Screen) : (s.showScreen scr).i = s.i := rfl
@[simp] theorem State.showScreen_pc (scr : Screen) : (s.showScreen scr).pc = s.pc := rfl
@[simp] theorem State.showScreen_stack (scr : Screen) : (s.showScreen scr).stack = s.stack := rfl
@[simp] theorem State.showScreen_sp (scr : Screen) : (s.showScreen scr).sp = s.sp := rfl
@[simp] theorem State.showScreen_dt (scr : Screen) : (s.showScreen scr).dt = s.dt := rfl
@[simp] theorem State.showScreen_st (scr : Screen) : (s.showScreen scr).st = s.st := rfl
@[simp] theorem State.showScreen_screen (scr : Screen) : (s.showScreen scr).screen = scr := rfl
@[simp] theorem State.showScreen_redraw (scr : Screen) : (s.showScreen scr).redraw = true := rfl
@[simp] theorem State.showScreen_keys (scr : Screen) : (s.showScreen scr).keys = s.keys := rfl
@[simp] theorem State.showScreen_loadStore (scr : Screen) : (s.showScreen scr).loadStore = s.loadStore := rfl
@[simp] theorem State.showScreen_shift (scr : Screen) : (s.showScreen scr).shift = s.shift := rfl
@[simp] theorem State.showScreen_mem (scr : Screen) : (s.showScreen scr).mem = s.mem := rfl
@[simp] theorem State.showScreen_cycleCounter (scr : Screen) : (s.showScreen scr).cycleCounter = s.cycleCounter := rfl
@[simp] theorem State.showScreen_stepCounter (scr : Screen) : (s.showScreen scr).stepCounter = s.stepCounter := rfl
@[simp] theorem State.showScreen_run (scr : Screen) : (s.showScreen scr).run = s.run := rfl
@[simp] theorem State.showScreen_stopIssued (scr : Screen) : (s.showScreen scr).stopIssued = s.stopIssued := rfl
@[simp] theorem State.showScreen_fault (scr : Screen) : (s.showScreen scr).fault = s.fault := rfl
@[simp] theorem State.showScreen_tickStep (scr : Screen) : (s.showScreen scr).tickStep = s.tickStep := rfl
@[simp] theorem State.showScreen_inputs (scr : Screen) : (s.showScreen scr).inputs = s.inputs := rfl
@[simp] theorem State.showScreen_outputs (scr : Screen) : (s.showScreen scr).outputs = s.outputs := rfl
@[simp] theorem State.showScreen_slots (scr : Screen) : (s.showScreen scr).slots = s.slots := rfl
@[simp] theorem State.showScreen_draws (scr : Screen) : (s.showScreen scr).draws = s.draws := rfl
@[simp] theorem State.showScreen_readV (scr : Screen) (r : Reg) : (s.showScreen scr).readV r = s.readV r := rfl
@[simp] theorem State.showScreen_stackAt (scr : Screen) (j : Fin 16) : (s.showScreen scr).stackAt j = s.stackAt j := rfl
@[simp] theorem State.showScreen_byteAt (scr : Screen) (n : Nat) : (s.showScreen scr).byteAt n = s.byteAt n := rfl

/-! ### emit -/

@[simp] theorem State.emit_cfg (o : Output) : (s.emit o).cfg = s.cfg := rfl
@[simp] theorem State.emit_v (o : Output) : (s.emit o).v = s.v := rfl
@[simp] theorem State.emit_i (o : Output) : (s.emit o).i = s.i := rfl
@[simp] theorem State.emit_pc (o : Output) : (s.emit o).pc = s.pc := rfl
@[simp] theorem State.emit_stack (o : Output) : (s.emit o).stack = s.stack := rfl
@[simp] theorem State.emit_sp (o : Output) : (s.emit o).sp = s.sp := rfl
@[simp] theorem State.emit_dt (o : Output) : (s.emit o).dt = s.dt := rfl
@[simp] theorem State.emit_st (o : Output) : (s.emit o).st = s.st := rfl
@[simp] theorem State.emit_screen (o : Output) : (s.emit o).screen = s.screen := rfl
@[simp] theorem State.emit_redraw (o : Output) : (s.emit o).redraw = s.redraw := rfl
@[simp] theorem State.emit_keys (o : Output) : (s.emit o).keys = s.keys := rfl
@[simp] theorem State.emit_loadStore (o : Output) : (s.emit o).loadStore = s.loadStore := rfl
@[simp] theorem State.emit_shift (o : Output) : (s.emit o).shift = s.shift := rfl
@[simp] theorem State.emit_mem (o : Output) : (s.emit o).mem = s.mem := rfl
@[simp] theorem State.emit_cycleCounter (o : Output) : (s.emit o).cycleCounter = s.cycleCounter := rfl
@[simp] theorem State.emit_stepCounter (o : Output) : (s.emit o).stepCounter = s.stepCounter := rfl
@[simp] theorem State.emit_run (o : Output) : (s.emit o).run = s.run := rfl
@[simp] theorem State.emit_stopIssued (o : Output) : (s.emit o).stopIssued = s.stopIssued := rfl
@[simp] theorem State.emit_fault (o : Output) : (s.emit o).fault = s.fault := rfl
@[simp] theorem State.emit_tickStep (o : Output) : (s.emit o).tickStep = s.tickStep := rfl
@[simp] theorem State.emit_inputs (o : Output) : (s.emit o).inputs = s.inputs := rfl
@[simp] theorem State.emit_outputs (o : Output) : (s.emit o).outputs = s.outputs ++ [o] := rfl
@[simp] theorem State.emit_slots (o : Output) : (s.emit o).slots = s.slots := rfl
@[simp] theorem State.emit_draws (o : Output) : (s.emit o).draws = s.draws := rfl
@[simp] theorem State.emit_readV (o : Output) (r : Reg) : (s.emit o).readV r = s.readV r := rfl
@[simp] theorem State.emit_stackAt (o : Output) (j : Fin 16) : (s.emit o).stackAt j = s.stackAt j := rfl
@[simp] theorem State.emit_byteAt (o : Output) (n : Nat) : (s.emit o).byteAt n = s.byteAt n := rfl

/-! ### setFlag -/

@[simp] theorem State.setFlag_cfg (b : Bool) : (s.setFlag b).cfg = s.cfg := rfl
@[simp] theorem State.setFlag_v (b : Bool) : (s.setFlag b).v = s.v.set regF.val (flagByte b) := rfl
@[simp] theorem State.setFlag_i (b : Bool) : (s.setFlag b).i = s.i := rfl
@[simp] theorem State.setFlag_pc (b : Bool) : (s.setFlag b).pc = s.pc := rfl
@[simp] theorem State.setFlag_stack (b : Bool) : (s.setFlag b).stack = s.stack := rfl
@[simp] theorem State.setFlag_sp (b : Bool) : (s.setFlag b).sp = s.sp := rfl
@[simp] theorem State.setFlag_dt (b : Bool) : (s.setFlag b).dt = s.dt := rfl
@[simp] theorem State.setFlag_st (b : Bool) : (s.setFlag b).st = s.st := rfl
@[simp] theorem State.setFlag_screen (b : Bool) : (s.setFlag b).screen = s.screen := rfl
@[simp] theorem State.setFlag_redraw (b : Bool) : (s.setFlag b).redraw = s.redraw := rfl
@[simp] theorem State.setFlag_keys (b : Bool) : (s.setFlag b).keys = s.keys := rfl
@[simp] theorem State.setFlag_loadStore (b : Bool) : (s.setFlag b).loadStore = s.loadStore := rfl
@[simp] theorem State.setFlag_shift (b : Bool) : (s.setFlag b).shift = s.shift := rfl
@[simp] theorem State.setFlag_mem (b : Bool) : (s.setFlag b).mem = s.mem := rfl
@[simp] theorem State.setFlag_cycleCounter (b : Bool) : (s.setFlag b).cycleCounter = s.cycleCounter := rfl
@[simp] theorem State.setFlag_stepCounter (b : Bool) : (s.setFlag b).stepCounter = s.stepCounter := rfl
@[simp] theorem State.setFlag_run (b : Bool) : (s.setFlag b).run = s.run := rfl
@[simp] theorem State.setFlag_stopIssued (b : Bool) : (s.setFlag b).stopIssued = s.stopIssued := rfl
@[simp] theorem State.setFlag_fault (b : Bool) : (s.setFlag b).fault = s.fault := rfl
@[simp] theorem State.setFlag_tickStep (b : Bool) : (s.setFlag b).tickStep = s.tickStep := rfl
@[simp] theorem State.setFlag_inputs (b : Bool) : (s.setFlag b).inputs = s.inputs := rfl
@[simp] theorem State.setFlag_outputs (b : Bool) : (s.setFlag b).outputs = s.outputs := rfl
@[simp] theorem State.setFlag_slots (b : Bool) : (s.setFlag b).slots = s.slots := rfl
@[simp] theorem State.setFlag_draws (b : Bool) : (s.setFlag b).draws = s.draws := rfl
@[simp] theorem State.setFlag_stackAt (b : Bool) (j : Fin 16) : (s.setFlag b).stackAt j = s.stackAt j := rfl
@[simp] theorem State.setFlag_byteAt (b : Bool) (n : Nat) : (s.setFlag b).byteAt n = s.byteAt n := rfl

/-! ### setResultFlag -/

@[simp] theorem State.setResultFlag_cfg (x : Reg) (r : Byte) (b : Bool) : (s.setResultFlag x r b).cfg = s.cfg := rfl
@[simp] theorem State.setResultFlag_i (x : Reg) (r : Byte) (b : Bool) : (s.setResultFlag x r b).i = s.i := rfl
@[simp] theorem State.setResultFlag_pc (x : Reg) (r : Byte) (b : Bool) : (s.setResultFlag x r b).pc = s.pc := rfl
@[simp] theorem State.setResultFlag_stack (x : Reg) (r : Byte) (b : Bool) : (s.setResultFlag x r b).stack = s.stack := rfl
@[simp] theorem State.setResultFlag_sp (x : Reg) (r : Byte) (b : Bool) : (s.setResultFlag x r b).sp = s.sp := rfl
@[simp] theorem State.setResultFlag_dt (x : Reg) (r : Byte) (b : Bool) : (s.setResultFlag x r b).dt = s.dt := rfl
@[simp] theorem State.setResultFlag_st (x : Reg) (r : Byte) (b : Bool) : (s.setResultFlag x r b).st = s.st := rfl
@[simp] theorem State.setResultFlag_screen (x : Reg) (r : Byte) (b : Bool) : (s.setResultFlag x r b).screen = s.screen := rfl
@[simp] theorem State.setResultFlag_redraw (x : Reg) (r : Byte) (b : Bool) : (s.setResultFlag x r b).redraw = s.redraw := rfl
@[simp] theorem State.setResultFlag_keys (x : Reg) (r : Byte) (b : Bool) : (s.setResultFlag x r b).keys = s.keys := rfl
@[simp] theorem State.setResultFlag_loadStore (x : Reg) (r : Byte) (b : Bool) : (s.setResultFlag x r b).loadStore = s.loadStore := rfl
@[simp] theorem State.setResultFlag_shift (x : Reg) (r : Byte) (b : Bool) : (s.setResultFlag x r b).shift = s.shift := rfl
@[simp] theorem State.setResultFlag_mem (x : Reg) (r : Byte) (b : Bool) : (s.setResultFlag x r b).mem = s.mem := rfl
@[simp] theorem State.setResultFlag_cycleCounter (x : Reg) (r : Byte) (b : Bool) : (s.setResultFlag x r b).cycleCounter = s.cycleCounter := rfl
@[simp] theorem State.setResultFlag_stepCounter (x : Reg) (r : Byte) (b : Bool) : (s.setResultFlag x r b).stepCounter = s.stepCounter := rfl
@[simp] theorem State.setResultFlag_run (x : Reg) (r : Byte) (b : Bool) : (s.setResultFlag x r b).run = s.run := rfl
@[simp] theorem State.setResultFlag_stopIssued (x : Reg) (r : Byte) (b : Bool) : (s.setResultFlag x r b).stopIssued = s.stopIssued := rfl
@[simp] theorem State.setResultFlag_fault (x : Reg) (r : Byte) (b : Bool) : (s.setResultFlag x r b).fault = s.fault := rfl
@[simp] theorem State.setResultFlag_tickStep (x : Reg) (r : Byte) (b : Bool) : (s.setResultFlag x r b).tickStep = s.tickStep := rfl
@[simp] theorem State.setResultFlag_inputs (x : Reg) (r : Byte) (b : Bool) : (s.setResultFlag x r b).inputs = s.inputs := rfl
@[simp] theorem State.setResultFlag_outputs (x : Reg) (r : Byte) (b : Bool) : (s.setResultFlag x r b).outputs = s.outputs := rfl
@[simp] theorem State.setResultFlag_slots (x : Reg) (r : Byte) (b : Bool) : (s.setResultFlag x r b).slots = s.slots := rfl
@[simp] theorem State.setResultFlag_draws (x : Reg) (r : Byte) (b : Bool) : (s.setResultFlag x r b).draws = s.draws := rfl
@[simp] theorem State.setResultFlag_stackAt (x : Reg) (r : Byte) (b : Bool) (j : Fin 16) : (s.setResultFlag x r b).stackAt j = s.stackAt j := rfl
@[simp] theorem State.setResultFlag_byteAt (x : Reg) (r : Byte) (b : Bool) (n : Nat) : (s.setResultFlag x r b).byteAt n = s.byteAt n := rfl

/-! ### bumpI -/

@[simp] theorem State.bumpI_cfg (x : Reg) : (s.bumpI x).cfg = s.cfg := by unfold State.bumpI; split <;> rfl
@[simp] theorem State.bumpI_v (x : Reg) : (s.bumpI x).v = s.v := by unfold State.bumpI; split <;> rfl
@[simp] theorem State.bumpI_pc (x : Reg) : (s.bumpI x).pc = s.pc := by unfold State.bumpI; split <;> rfl
@[simp] theorem State.bumpI_stack (x : Reg) : (s.bumpI x).stack = s.stack := by unfold State.bumpI; split <;> rfl
@[simp] theorem State.bumpI_sp (x : Reg) : (s.bumpI x).sp = s.sp := by unfold State.bumpI; split <;> rfl
@[simp] theorem State.bumpI_dt (x : Reg) : (s.bumpI x).dt = s.dt := by unfold State.bumpI; split <;> rfl
@[simp] theorem State.bumpI_st (x : Reg) : (s.bumpI x).st = s.st := by unfold State.bumpI; split <;> rfl
@[simp] theorem State.bumpI_screen (x : Reg) : (s.bumpI x).screen = s.screen := by unfold State.bumpI; split <;> rfl
@[simp] theorem State.bumpI_redraw (x : Reg) : (s.bumpI x).redraw = s.redraw := by unfold State.bumpI; split <;> rfl
@[simp] theorem State.bumpI_keys (x : Reg) : (s.bumpI x).keys = s.keys := by unfold State.bumpI; split <;> rfl
@[simp] theorem State.bumpI_loadStore (x : Reg) : (s.bumpI x).loadStore = s.loadStore := by unfold State.bumpI; split <;> rfl
@[simp] theorem State.bumpI_shift (x : Reg) : (s.bumpI x).shift = s.shift := by unfold State.bumpI; split <;> rfl
@[simp] theorem State.bumpI_mem (x : Reg) : (s.bumpI x).mem = s.mem := by unfold State.bumpI; split <;> rfl
@[simp] theorem State.bumpI_cycleCounter (x : Reg) : (s.bumpI x).cycleCounter = s.cycleCounter := by unfold State.bumpI; split <;> rfl
@[simp] theorem State.bumpI_stepCounter (x : Reg) : (s.bumpI x).stepCounter = s.stepCounter := by unfold State.bumpI; split <;> rfl
@[simp] theorem State.bumpI_run (x : Reg) : (s.bumpI x).run = s.run := by unfold State.bumpI; split <;> rfl
@[simp] theorem State.bumpI_stopIssued (x : Reg) : (s.bumpI x).stopIssued = s.stopIssued := by unfold State.bumpI; split <;> rfl
@[simp] theorem State.bumpI_fault (x : Reg) : (s.bumpI x).fault = s.fault := by unfold State.bumpI; split <;> rfl
@[simp] theorem State.bumpI_tickStep (x : Reg) : (s.bumpI x).tickStep = s.tickStep := by unfold State.bumpI; split <;> rfl
@[simp] theorem State.bumpI_inputs (x : Reg) : (s.bumpI x).inputs = s.inputs := by unfold State.bumpI; split <;> rfl
@[simp] theorem State.bumpI_outputs (x : Reg) : (s.bumpI x).outputs = s.outputs := by unfold State.bumpI; split <;> rfl
@[simp] theorem State.bumpI_slots (x : Reg) : (s.bumpI x).slots = s.slots := by unfold State.bumpI; split <;> rfl
@[simp] theorem State.bumpI_draws (x : Reg) : (s.bumpI x).draws = s.draws := by unfold State.bumpI; split <;> rfl
@[simp] theorem State.bumpI_readV (x : Reg) (r : Reg) : (s.bumpI x).readV r = s.readV r := by unfold State.bumpI; split <;> rfl
@[simp] theorem State.bumpI_stackAt (x : Reg) (j : Fin 16) : (s.bumpI x).stackAt j = s.stackAt j := by unfold State.bumpI; split <;> rfl
@[simp] theorem State.bumpI_byteAt (x : Reg) (n : Nat) : (s.bumpI x).byteAt n = s.byteAt n := by unfold State.bumpI; split <;> rfl

/-! ### skipIf -/

@[simp] theorem State.skipIf_cfg (b : Bool) : (s.skipIf b).cfg = s.cfg := by unfold State.skipIf; split <;> rfl
@[simp] theorem State.skipIf_v (b : Bool) : (s.skipIf b).v = s.v := by unfold State.skipIf; split <;> rfl
@[simp] theorem State.skipIf_i (b : Bool) : (s.skipIf b).i = s.i := by unfold State.skipIf; split <;> rfl
@[simp] theorem State.skipIf_stack (b : Bool) : (s.skipIf b).stack = s.stack := by unfold State.skipIf; split <;> rfl
@[simp] theorem State.skipIf_sp (b : Bool) : (s.skipIf b).sp = s.sp := by unfold State.skipIf; split <;> rfl
@[simp] theorem State.skipIf_dt (b : Bool) : (s.skipIf b).dt = s.dt := by unfold State.skipIf; split <;> rfl
@[simp] theorem State.skipIf_st (b : Bool) : (s.skipIf b).st = s.st := by unfold State.skipIf; split <;> rfl
@[simp] theorem State.skipIf_screen (b : Bool) : (s.skipIf b).screen = s.screen := by unfold State.skipIf; split <;> rfl
@[simp] theorem State.skipIf_redraw (b : Bool) : (s.skipIf b).redraw = s.redraw := by unfold State.skipIf; split <;> rfl
@[simp] theorem State.skipIf_keys (b : Bool) : (s.skipIf b).keys = s.keys := by unfold State.skipIf; split <;> rfl
@[simp] theorem State.skipIf_loadStore (b : Bool) : (s.skipIf b).loadStore = s.loadStore := by unfold State.skipIf; split <;> rfl
@[simp] theorem State.skipIf_shift (b : Bool) : (s.skipIf b).shift = s.shift := by unfold State.skipIf; split <;> rfl
@[simp] theorem State.skipIf_mem (b : Bool) : (s.skipIf b).mem = s.mem := by unfold State.skipIf; split <;> rfl
@[simp] theorem State.skipIf_cycleCounter (b : Bool) : (s.skipIf b).cycleCounter = s.cycleCounter := by unfold State.skipIf; split <;> rfl
@[simp] theorem State.skipIf_stepCounter (b : Bool) : (s.skipIf b).stepCounter = s.stepCounter := by unfold State.skipIf; split <;> rfl
@[simp] theorem State.skipIf_run (b : Bool) : (s.skipIf b).run = s.run := by unfold State.skipIf; split <;> rfl
@[simp] theorem State.skipIf_stopIssued (b : Bool) : (s.skipIf b).stopIssued = s.stopIssued := by unfold State.skipIf; split <;> rfl
@[simp] theorem State.skipIf_fault (b : Bool) : (s.skipIf b).fault = s.fault := by unfold State.skipIf; split <;> rfl
@[simp] theorem State.skipIf_tickStep (b : Bool) : (s.skipIf b).tickStep = s.tickStep := by unfold State.skipIf; split <;> rfl
@[simp] theorem State.skipIf_inputs (b : Bool) : (s.skipIf b).inputs = s.inputs := by unfold State.skipIf; split <;> rfl
@[simp] theorem State.skipIf_outputs (b : Bool) : (s.skipIf b).outputs = s.outputs := by unfold State.skipIf; split <;> rfl
@[simp] theorem State.skipIf_slots (b : Bool) : (s.skipIf b).slots = s.slots := by unfold State.skipIf; split <;> rfl
@[simp] theorem State.skipIf_draws (b : Bool) : (s.skipIf b).draws = s.draws := by unfold State.skipIf; split <;> rfl
@[simp] theorem State.skipIf_readV (b : Bool) (r : Reg) : (s.skipIf b).readV r = s.readV r := by unfold State.skipIf; split <;> rfl
@[simp] theorem State.skipIf_stackAt (b : Bool) (j : Fin 16) : (s.skipIf b).stackAt j = s.stackAt j := by unfold State.skipIf; split <;> rfl
@[simp] theorem State.skipIf_byteAt (b : Bool) (n : Nat) : (s.skipIf b).byteAt n = s.byteAt n := by unfold State.skipIf; split <;> rfl

/-! ### takeFault -/

@[simp] theorem takeFault_cfg (f : Fault) : (takeFault f s).cfg = s.cfg := rfl
@[simp] theorem takeFault_v (f : Fault) : (takeFault f s).v = s.v := rfl
@[simp] theorem takeFault_i (f : Fault) : (takeFault f s).i = s.i := rfl
@[simp] theorem takeFault_pc (f : Fault) : (takeFault f s).pc = s.pc := rfl
@[simp] theorem takeFault_stack (f : Fault) : (takeFault f s).stack = s.stack := rfl
@[simp] theorem takeFault_sp (f : Fault) : (takeFault f s).sp = s.sp := rfl
@[simp] theorem takeFault_dt (f : Fault) : (takeFault f s).dt = s.dt := rfl
@[simp] theorem takeFault_st (f : Fault) : (takeFault f s).st = s.st := rfl
@[simp] theorem takeFault_screen (f : Fault) : (takeFault f s).screen = s.screen := rfl
@[simp] theorem takeFault_redraw (f : Fault) : (takeFault f s).redraw = s.redraw := rfl
@[simp] theorem takeFault_keys (f : Fault) : (takeFault f s).keys = s.keys := rfl
@[simp] theorem takeFault_loadStore (f : Fault) : (takeFault f s).loadStore = s.loadStore := rfl
@[simp] theorem takeFault_shift (f : Fault) : (takeFault f s).shift = s.shift := rfl
@[simp] theorem takeFault_mem (f : Fault) : (takeFault f s).mem = s.mem := rfl
@[simp] theorem takeFault_cycleCounter (f : Fault) : (takeFault f s).cycleCounter = s.cycleCounter := rfl
@[simp] theorem takeFault_stepCounter (f : Fault) : (takeFault f s).stepCounter = s.stepCounter := rfl
@[simp] theorem takeFault_run (f : Fault) : (takeFault f s).run = .stopped := rfl
@[simp] theorem takeFault_stopIssued (f : Fault) : (takeFault f s).stopIssued = s.stopIssued := rfl
@[simp] theorem takeFault_fault (f : Fault) : (takeFault f s).fault = some ⟨f, s.pc⟩ := rfl
@[simp] theorem takeFault_tickStep (f : Fault) : (takeFault f s).tickStep = 0 := rfl
@[simp] theorem takeFault_inputs (f : Fault) : (takeFault f s).inputs = s.inputs := rfl
@[simp] theorem takeFault_outputs (f : Fault) : (takeFault f s).outputs = s.outputs ++ [.faultReport f.code ⟨f, s.pc⟩] := rfl
@[simp] theorem takeFault_slots (f : Fault) : (takeFault f s).slots = s.slots := rfl
@[simp] theorem takeFault_draws (f : Fault) : (takeFault f s).draws = s.draws := rfl
@[simp] theorem takeFault_readV (f : Fault) (r : Reg) : (takeFault f s).readV r = s.readV r := rfl
@[simp] theorem takeFault_stackAt (f : Fault) (j : Fin 16) : (takeFault f s).stackAt j = s.stackAt j := rfl
@[simp] theorem takeFault_byteAt (f : Fault) (n : Nat) : (takeFault f s).byteAt n = s.byteAt n := rfl

@[simp] theorem landOrFault_ok (t : State) : landOrFault s (.ok t) = t := rfl
@[simp] theorem landOrFault_error (f : Fault) : landOrFault s (.error f) = takeFault f s := rfl

/-! ### Registers read after a write -/

@[simp] theorem State.readV_setV (x r : Reg) (b : Byte) :
    (s.setV x b).readV r = if x = r then b else s.readV r := by
  simp only [State.readV, State.setV_v, Vector.getElem_set, Fin.ext_iff]

@[simp] theorem State.readV_setFlag (r : Reg) (b : Bool) :
    (s.setFlag b).readV r = if regF = r then flagByte b else s.readV r := by
  simp [State.setFlag]

@[simp] theorem State.readV_setResultFlag (x r : Reg) (res : Byte) (b : Bool) :
    (s.setResultFlag x res b).readV r =
      if regF = r then flagByte b else if x = r then res else s.readV r := by
  simp [State.setResultFlag]

theorem State.byteAt_setMem (m : Memory) (n : Nat) : (s.setMem m).byteAt n = Memory.byteAt s.cfg m n := rfl

@[simp] theorem State.readV_setLowV (bs : List Byte) (r : Reg) :
    (s.setLowV bs).readV r = bs.getD r.val (s.readV r) := by
  simp [State.readV]

@[simp] theorem State.stackAt_push (a : Word) (j : Fin 16) :
    (s.push a).stackAt j = if s.sp = j then a else s.stackAt j := by
  simp only [State.stackAt, State.push_stack, Vector.getElem_set, Fin.ext_iff]

/-! ### PC and I after masking -/

theorem mask12_toNat (n : Nat) : (mask12 n).toNat = n % 0x1000 := by
  simp only [mask12, BitVec.toNat_ofNat]; omega

theorem mask12_lt (n : Nat) : (mask12 n).toNat < 0x1000 := by
  rw [mask12_toNat]; exact Nat.mod_lt _ (by decide)

theorem State.skipIf_pc_toNat (b : Bool) :
    (s.skipIf b).pc.toNat = (s.pc.toNat + if b then 4 else 2) % 0x1000 := by
  unfold State.skipIf
  cases b
  · simp [mask12_toNat]
  · simp only [↓reduceIte, State.advancePc_pc, mask12_toNat]; omega

theorem State.bumpI_i_toNat (x : Reg) :
    (s.bumpI x).i.toNat = if s.loadStore then s.i.toNat else (s.i.toNat + x.val + 1) % 0x1000 := by
  unfold State.bumpI; split <;> simp [mask12_toNat]

end Sys2Proof.Machine
end

