-- ==== Sys2Proof/Laws/Memory.lean ====
section
/-! SUPPORT. The laws of memory: reading after writing, the canonical form, and what the block transfers do. -/

namespace Sys2Proof.Machine

variable {cfg : Config}

theorem Memory.wfFrom_cons {lo k : Nat} {b : Byte} {rest : Memory} :
    Memory.wfFrom cfg lo ((k, b) :: rest) = true ↔
      lo ≤ k ∧ k < memSize ∧ b ≠ unlisted cfg k ∧ Memory.wfFrom cfg (k + 1) rest = true := by
  simp only [Memory.wfFrom, Bool.and_eq_true, decide_eq_true_eq, and_assoc]

/-- A lower start asks less. -/
theorem Memory.wfFrom_mono {lo lo' : Nat} (h : lo' ≤ lo) :
    ∀ {m : Memory}, Memory.wfFrom cfg lo m = true → Memory.wfFrom cfg lo' m = true
  | [], _ => rfl
  | (k, b) :: rest, hm => by
    rw [wfFrom_cons] at hm ⊢
    exact ⟨Nat.le_trans h hm.1, hm.2⟩

/-- Below its first possible address a canonical memory lists nothing. -/
theorem Memory.byteAt_below {a : Nat} :
    ∀ {lo : Nat} {m : Memory}, Memory.wfFrom cfg lo m = true → a < lo → Memory.byteAt cfg m a = unlisted cfg a
  | _, [], _, _ => rfl
  | lo, (k, b) :: rest, hm, ha => by
    obtain ⟨h1, -, -, h4⟩ := wfFrom_cons.1 hm
    simp only [Memory.byteAt]
    rw [if_neg (by omega), byteAt_below h4 (by omega)]

theorem Memory.byteAt_cell_append (a x : Nat) (b : Byte) (m : Memory)
    (h : Memory.byteAt cfg m a = unlisted cfg a) :
    Memory.byteAt cfg (Memory.cell cfg a b ++ m) x = if x = a then b else Memory.byteAt cfg m x := by
  unfold Memory.cell
  by_cases hb : b = unlisted cfg a
  · by_cases hx : x = a
    · subst hx; simp [hb, h]
    · simp [hb, hx]
  · simp only [hb, ↓reduceIte, List.cons_append, List.nil_append, Memory.byteAt]
    by_cases hx : a = x
    · simp [hx]
    · simp [hx, Ne.symm hx]

/-- Reading after a write: the byte written at its address, and every other byte as before (R62, R63). -/
theorem Memory.byteAt_put {a x : Nat} {b : Byte} :
    ∀ {lo : Nat} {m : Memory}, Memory.wfFrom cfg lo m = true →
      Memory.byteAt cfg (Memory.put cfg m a b) x = if x = a then b else Memory.byteAt cfg m x
  | _, [], _ => by
    have := byteAt_cell_append (cfg := cfg) a x b [] rfl
    simpa [Memory.put] using this
  | lo, (k, c) :: rest, hm => by
    obtain ⟨-, -, -, h4⟩ := wfFrom_cons.1 hm
    simp only [Memory.put]
    split
    · rename_i hak
      refine byteAt_cell_append a x b _ ?_
      simp only [Memory.byteAt]
      rw [if_neg (by omega), byteAt_below h4 (by omega)]
    · split
      · rename_i hak
        subst hak
        rw [byteAt_cell_append a x b rest (byteAt_below h4 (by omega))]
        simp only [Memory.byteAt]
        by_cases hx : x = a
        · simp [hx]
        · simp [hx, Ne.symm hx]
      · simp only [Memory.byteAt, byteAt_put h4]
        by_cases hx : k = x
        · simp [hx, show ¬ x = a by omega]
        · simp [hx]

theorem Memory.wfFrom_cell_append {lo a : Nat} {b : Byte} {m : Memory} (hlo : lo ≤ a) (ha : a < memSize)
    (hm : Memory.wfFrom cfg (a + 1) m = true) : Memory.wfFrom cfg lo (Memory.cell cfg a b ++ m) = true := by
  unfold Memory.cell
  by_cases hb : b = unlisted cfg a
  · simpa [hb] using wfFrom_mono (by omega) hm
  · simpa [hb] using wfFrom_cons.2 ⟨hlo, ha, hb, hm⟩

/-- A write keeps the canonical form. -/
theorem Memory.wfFrom_put {a : Nat} {b : Byte} (ha : a < memSize) :
    ∀ {lo : Nat} {m : Memory}, lo ≤ a → Memory.wfFrom cfg lo m = true →
      Memory.wfFrom cfg lo (Memory.put cfg m a b) = true
  | lo, [], hlo, _ => by
    have := wfFrom_cell_append (cfg := cfg) (b := b) (m := []) hlo ha rfl
    simpa [Memory.put] using this
  | lo, (k, c) :: rest, hlo, hm => by
    obtain ⟨h1, h2, h3, h4⟩ := wfFrom_cons.1 hm
    simp only [Memory.put]
    split
    · exact wfFrom_cell_append hlo ha (wfFrom_cons.2 ⟨by omega, h2, h3, h4⟩)
    · split
      · rename_i hak
        subst hak
        exact wfFrom_cell_append hlo ha h4
      · exact wfFrom_cons.2 ⟨h1, h2, h3, wfFrom_put ha (by omega) h4⟩

theorem Memory.wf_put {m : Memory} {a : Nat} {b : Byte} (ha : a < memSize) (hm : Memory.wf cfg m = true) :
    Memory.wf cfg (Memory.put cfg m a b) = true := wfFrom_put ha (Nat.zero_le _) hm

theorem Memory.wf_putAll :
    ∀ {bs : List Byte} {m : Memory} {a : Nat}, a + bs.length ≤ memSize → Memory.wf cfg m = true →
      Memory.wf cfg (Memory.putAll cfg m a bs) = true
  | [], _, _, _, hm => hm
  | b :: bs, m, a, ha, hm => by
    simp only [List.length_cons] at ha
    rw [Memory.putAll]
    exact wf_putAll (by omega) (wf_put (by omega) hm)

/-- Reading after writing several bytes: the bytes written at their addresses, every other byte as before. -/
theorem Memory.byteAt_putAll {x : Nat} :
    ∀ {bs : List Byte} {m : Memory} {a : Nat}, a + bs.length ≤ memSize → Memory.wf cfg m = true →
      Memory.byteAt cfg (Memory.putAll cfg m a bs) x =
        if a ≤ x ∧ x < a + bs.length then bs.getD (x - a) 0 else Memory.byteAt cfg m x
  | [], m, a, _, _ => by
    rw [if_neg (by simp only [List.length_nil]; omega)]; rfl
  | b :: bs, m, a, ha, hm => by
    simp only [List.length_cons] at ha ⊢
    simp only [Memory.putAll]
    rw [byteAt_putAll (by omega) (wf_put (by omega) hm), byteAt_put hm]
    by_cases h1 : x = a
    · subst h1
      simp
    · by_cases h2 : a + 1 ≤ x ∧ x < a + 1 + bs.length
      · rw [if_pos h2, if_pos (by omega), show x - a = (x - (a + 1)) + 1 by omega]
        simp
      · rw [if_neg h2, if_neg h1, if_neg (by omega)]

/-! ### The block transfers -/

/-- A store of several bytes: all of them, or none and the first address out of range (R63, R67, R186). -/
theorem storeBytes_eq :
    ∀ (bs : List Byte) (s : State) (a : Nat),
      storeBytes s a bs =
        if bs = [] ∨ a + bs.length ≤ memSize then
          .ok (s.setMem (Memory.putAll s.cfg s.mem a bs))
        else .error (.memOutOfRange (max a memSize) .write)
  | [], s, a => by simp [storeBytes, Memory.putAll, State.setMem]
  | b :: bs, s, a => by
    simp only [storeBytes, memWrite]
    by_cases ha : memSize ≤ a
    · rw [if_pos ha, if_neg (by simp; omega), Nat.max_eq_left ha]
    · simp only [ha, ↓reduceIte]
      rw [storeBytes_eq bs]
      by_cases hb : a + 1 + bs.length ≤ memSize
      · rw [if_pos (.inr hb), if_pos (.inr (by simp only [List.length_cons]; omega))]
        rfl
      · cases bs with
        | nil => simp only [List.length_nil] at hb; omega
        | cons c cs =>
          rw [if_neg (by simp; simpa using hb), if_neg (by simp at hb ⊢; omega)]
          simp only [List.length_cons] at hb
          congr 2; omega

/-- A load of several bytes: all of them, or the first address out of range (R62, R67, R186). -/
theorem loadBytes_eq (s : State) :
    ∀ (n a : Nat),
      loadBytes s a n =
        if n = 0 ∨ a + n ≤ memSize then .ok ((List.range n).map (fun k => s.byteAt (a + k)))
        else .error (.memOutOfRange (max a memSize) .read)
  | 0, a => by simp [loadBytes]
  | n + 1, a => by
    simp only [loadBytes, memRead]
    by_cases ha : memSize ≤ a
    · rw [if_pos ha, if_neg (by omega), Nat.max_eq_left ha]
    · simp only [ha, ↓reduceIte]
      rw [loadBytes_eq s n]
      by_cases hn : a + 1 + n ≤ memSize
      · rw [if_pos (.inr hn), if_pos (.inr (by omega))]
        simp only [List.range_succ_eq_map, List.map_cons, List.map_map, Nat.add_zero]
        congr 3
        funext k
        simp only [Function.comp_apply]
        congr 1; omega
      · by_cases h0 : n = 0
        · omega
        · rw [if_neg (by omega), if_neg (by omega)]
          simp only
          congr 2; omega

theorem State.byteAt_putAll (s : State) (a x : Nat) (bs : List Byte) (ha : a + bs.length ≤ memSize)
    (hm : Memory.wf s.cfg s.mem = true) :
    (s.setMem (Memory.putAll s.cfg s.mem a bs)).byteAt x =
      if a ≤ x ∧ x < a + bs.length then bs.getD (x - a) 0 else s.byteAt x :=
  Memory.byteAt_putAll ha hm

theorem State.length_lowV (s : State) (x : Reg) : (s.lowV x).length = x.val + 1 := by
  simp [State.lowV]

theorem State.getD_lowV (s : State) (x : Reg) (k : Reg) (h : k ≤ x) : (s.lowV x).getD k.val 0 = s.readV k := by
  have hk : k.val < x.val + 1 := Nat.lt_succ_of_le h
  simp only [State.lowV, State.readV, List.getD_eq_getElem?_getD, List.getElem?_take, hk, ↓reduceIte]
  simp

theorem decimalDigits_length (b : Byte) : (decimalDigits b).length = 3 := rfl

end Sys2Proof.Machine
end

