-- ==== Sys2Proof/Laws/Screen.lean ====
section
/-! SUPPORT. The laws of the screen and of the drawing loop: a toggled pixel, the pixels of a sprite, and what the
loop leaves behind. -/

namespace Sys2Proof.Machine

@[simp] theorem Screen.pixel_blank (x y : Nat) : Screen.blank.pixel x y = false := by
  simp [Screen.pixel, Screen.blank]

/-- There is no pixel outside the buffer. -/
theorem Screen.pixel_outside (scr : Screen) {x y : Nat} (h : 64 ≤ x ∨ 32 ≤ y) : scr.pixel x y = false := by
  rw [Screen.pixel, dif_neg (by omega)]

/-- Two screens with the same pixels are the same data. -/
theorem Screen.ext_pixel {a b : Screen} (h : ∀ x y, x < 64 → y < 32 → a.pixel x y = b.pixel x y) : a = b := by
  obtain ⟨ra⟩ := a
  obtain ⟨rb⟩ := b
  congr 1
  refine Vector.ext fun y hy => Vector.ext fun x hx => ?_
  simpa [Screen.pixel, hx, hy] using h x y hx hy

/-- A toggle inverts its pixel and no other. -/
theorem Screen.pixel_toggle (scr : Screen) {x y : Nat} (hx : x < 64) (hy : y < 32) (px py : Nat) :
    (scr.toggle x y).pixel px py = (scr.pixel px py ^^ decide ((px, py) = (x, y))) := by
  by_cases hp : px < 64 ∧ py < 32
  · simp only [Screen.toggle, Screen.pixel, hx, hy, hp, and_self, ↓reduceDIte, Vector.getElem_set, Prod.mk.injEq]
    by_cases h1 : y = py
    · subst h1
      by_cases h2 : x = px
      · subst h2; simp
      · simp [h2, Ne.symm h2]
    · simp [h1, Ne.symm h1]
  · rw [pixel_outside _ (by omega), pixel_outside _ (by omega)]
    have : ¬ (px, py) = (x, y) := by rw [Prod.mk.injEq]; omega
    simp [this]

/-- The pixel lies inside the buffer (R29). -/
def OnScreen (p : Nat × Nat) : Prop := p.1 < 64 ∧ p.2 < 32

/-- The drawing loop over pixels that all lie in the buffer, none of them twice: each of them inverted, every other
as before, and the collision flag set exactly when one of them was set (R211). -/
theorem drawPixels_onScreen :
    ∀ (ps : List (Nat × Nat)) (scr : Screen) (c : Bool), (∀ p ∈ ps, OnScreen p) → ps.Nodup →
      ∃ scr', drawPixels scr c ps = .ok (scr', c || ps.any (fun p => scr.pixel p.1 p.2)) ∧
        ∀ px py, scr'.pixel px py = (scr.pixel px py ^^ decide ((px, py) ∈ ps))
  | [], scr, c, _, _ => ⟨scr, by simp [drawPixels], by simp⟩
  | (x, y) :: ps, scr, c, hin, hnd => by
    have hxy : OnScreen (x, y) := hin _ (List.mem_cons_self ..)
    obtain ⟨hnot, hnd'⟩ := List.nodup_cons.1 hnd
    obtain ⟨scr', hok, hpix⟩ := drawPixels_onScreen ps (scr.toggle x y) (c || scr.pixel x y)
      (fun p hp => hin p (List.mem_cons_of_mem _ hp)) hnd'
    refine ⟨scr', ?_, fun px py => ?_⟩
    · have hlt : ¬ (64 ≤ x ∨ 32 ≤ y) := by have := hxy.1; have := hxy.2; simp only at *; omega
      rw [drawPixels, if_neg hlt, hok]
      have : (ps.any fun p => (scr.toggle x y).pixel p.1 p.2) = ps.any fun p => scr.pixel p.1 p.2 := by
        rw [Bool.eq_iff_iff, List.any_eq_true, List.any_eq_true]
        refine exists_congr fun p => and_congr_right fun hp => ?_
        rw [Screen.pixel_toggle scr hxy.1 hxy.2]
        have : ¬ (p.1, p.2) = (x, y) := fun h => hnot (h ▸ hp)
        simp [this]
      rw [this, List.any_cons, Bool.or_assoc]
    · rw [hpix, Screen.pixel_toggle scr hxy.1 hxy.2, Bool.xor_assoc]
      congr 1
      by_cases h1 : (px, py) = (x, y)
      · rw [h1]; simp [hnot]
      · by_cases h2 : (px, py) ∈ ps <;> simp [h1, h2]

/-- The drawing loop raises the fault of the first pixel outside the buffer (R211). -/
theorem drawPixels_offScreen :
    ∀ (ps : List (Nat × Nat)) (scr : Screen) (c : Bool) (x y : Nat) (qs : List (Nat × Nat)),
      (∀ p ∈ ps, OnScreen p) → ¬ OnScreen (x, y) →
      drawPixels scr c (ps ++ (x, y) :: qs) = .error (.drawOutOfRange x y)
  | [], scr, c, x, y, qs, _, hout => by
    rw [List.nil_append, drawPixels, if_pos (by simp only [OnScreen] at hout; omega)]
  | (u, w) :: ps, scr, c, x, y, qs, hin, hout => by
    have hu : OnScreen (u, w) := hin _ (List.mem_cons_self ..)
    rw [List.cons_append, drawPixels, if_neg (by have := hu.1; have := hu.2; simp only at *; omega)]
    exact drawPixels_offScreen ps _ _ x y qs (fun p hp => hin p (List.mem_cons_of_mem _ hp)) hout

/-! ### The pixels of a sprite -/

theorem mem_rowPixels {x0 y : Nat} {row : Byte} {px py : Nat} :
    (px, py) ∈ rowPixels x0 y row ↔ ∃ c, c < 8 ∧ row.getLsbD (7 - c) = true ∧ px = x0 + c ∧ py = y := by
  simp only [rowPixels, List.mem_map, List.mem_filter, List.mem_range, Prod.mk.injEq, and_assoc, eq_comm]

theorem nodup_rowPixels (x0 y : Nat) (row : Byte) : (rowPixels x0 y row).Nodup := by
  refine List.Nodup.map ?_ (List.Nodup.filter _ List.nodup_range)
  intro a b hab
  simp only [Prod.mk.injEq, and_true] at hab
  omega

/-- The pixels of a sprite are those of its set bits (R211). -/
theorem mem_spritePixels {x0 : Nat} {px py : Nat} :
    ∀ {rows : List Byte} {y0 : Nat},
      (px, py) ∈ spritePixels x0 y0 rows ↔
        ∃ r c, r < rows.length ∧ c < 8 ∧ px = x0 + c ∧ py = y0 + r ∧ (rows.getD r 0).getLsbD (7 - c) = true
  | [], y0 => by simp [spritePixels]
  | row :: rows, y0 => by
    rw [spritePixels, List.mem_append, mem_rowPixels, mem_spritePixels]
    constructor
    · rintro (⟨c, hc, hb, hx, hy⟩ | ⟨r, c, hr, hc, hx, hy, hb⟩)
      · exact ⟨0, c, by simp, hc, hx, by omega, by simpa using hb⟩
      · exact ⟨r + 1, c, by simpa using hr, hc, hx, by omega, by simpa using hb⟩
    · rintro ⟨r, c, hr, hc, hx, hy, hb⟩
      cases r with
      | zero => exact .inl ⟨c, hc, by simpa using hb, hx, by omega⟩
      | succ r => exact .inr ⟨r, c, by simpa using hr, hc, hx, by omega, by simpa using hb⟩

/-- No two set bits of a sprite fall on one pixel: nothing wraps (D8). -/
theorem nodup_spritePixels (x0 : Nat) : ∀ (rows : List Byte) (y0 : Nat), (spritePixels x0 y0 rows).Nodup
  | [], _ => List.nodup_nil
  | row :: rows, y0 => by
    rw [spritePixels, List.nodup_append]
    refine ⟨nodup_rowPixels _ _ _, nodup_spritePixels x0 rows (y0 + 1), ?_⟩
    rintro ⟨a, b⟩ ha ⟨a', b'⟩ hb h
    obtain ⟨c, -, -, -, h1⟩ := mem_rowPixels.1 ha
    obtain ⟨r, c', -, -, -, h2, -⟩ := mem_spritePixels.1 hb
    simp only [Prod.mk.injEq] at h
    omega

/-- The columns of a sprite row, cut at column `c`. -/
theorem range_eight_cut {c : Nat} (hc : c < 8) :
    List.range 8 = List.range c ++ c :: (List.range (7 - c)).map (· + (c + 1)) := by
  have : c = 0 ∨ c = 1 ∨ c = 2 ∨ c = 3 ∨ c = 4 ∨ c = 5 ∨ c = 6 ∨ c = 7 := by omega
  rcases this with rfl | rfl | rfl | rfl | rfl | rfl | rfl | rfl <;> rfl

/-- The pixels of a sprite come row by row and column by column: those before the pixel of the set bit (r, c) belong
to earlier set bits (R211). -/
theorem spritePixels_cut {x0 : Nat} :
    ∀ (rows : List Byte) (y0 r c : Nat), r < rows.length → c < 8 → (rows.getD r 0).getLsbD (7 - c) = true →
      ∃ ps qs, spritePixels x0 y0 rows = ps ++ (x0 + c, y0 + r) :: qs ∧
        ∀ p ∈ ps, ∃ r' c', (r' < r ∨ r' = r ∧ c' < c) ∧ c' < 8 ∧
          (rows.getD r' 0).getLsbD (7 - c') = true ∧ p = (x0 + c', y0 + r')
  | [], _, r, _, h, _, _ => by simp at h
  | row :: rows, y0, 0, c, _, hc, hb => by
    have hb' : row.getLsbD (7 - c) = true := by simpa using hb
    refine ⟨((List.range c).filter (fun c => row.getLsbD (7 - c))).map (fun c => (x0 + c, y0)),
      (((List.range (7 - c)).map (· + (c + 1))).filter (fun c => row.getLsbD (7 - c))).map (fun c => (x0 + c, y0)) ++
        spritePixels x0 (y0 + 1) rows, ?_, fun p hp => ?_⟩
    · rw [spritePixels, rowPixels, range_eight_cut hc, List.filter_append,
        List.filter_cons_of_pos (p := fun c => row.getLsbD (7 - c)) hb']
      simp
    · simp only [List.mem_map, List.mem_filter, List.mem_range] at hp
      obtain ⟨c', ⟨h1, h2⟩, h3⟩ := hp
      exact ⟨0, c', .inr ⟨rfl, h1⟩, by omega, by simpa using h2, by simpa using h3.symm⟩
  | row :: rows, y0, r + 1, c, h, hc, hb => by
    obtain ⟨ps, qs, h1, h2⟩ :=
      spritePixels_cut rows (y0 + 1) r c (by simpa using h) hc (by simpa using hb)
    refine ⟨rowPixels x0 y0 row ++ ps, qs, ?_, fun p hp => ?_⟩
    · rw [spritePixels, h1, List.append_assoc, show y0 + 1 + r = y0 + (r + 1) by omega]
    · rcases List.mem_append.1 hp with hp | hp
      · obtain ⟨a, b⟩ := p
        obtain ⟨c', g1, g2, g3, g4⟩ := mem_rowPixels.1 hp
        exact ⟨0, c', .inl (by omega), g1, by simpa using g2, by simp [g3, g4]⟩
      · obtain ⟨r', c', g1, g2, g3, g4⟩ := h2 p hp
        exact ⟨r' + 1, c', by omega, g2, by simpa using g3, by rw [g4, Prod.mk.injEq]; omega⟩

/-! ### The buffer of the redraw port -/

@[simp] theorem Screen.length_bytes (scr : Screen) : scr.bytes.length = 2048 := by
  simp [Screen.bytes]

/-- The pixel (x, y) stands at index `y * 64 + x` (R29, R331). -/
theorem Screen.getD_bytes (scr : Screen) {x y : Nat} (hx : x < 64) (hy : y < 32) :
    scr.bytes.getD (y * 64 + x) 0 = pixelByte (scr.pixel x y) := by
  have hk : y * 64 + x < 2048 := by omega
  simp only [Screen.bytes, List.getD_eq_getElem?_getD, List.getElem?_map, List.getElem?_range hk, Option.map_some,
    Option.getD_some]
  congr 2 <;> omega

end Sys2Proof.Machine
end

