-- ==== Sys2Proof/Laws/Exec.lean ====
section
/-! SUPPORT. What the meanings that may fault do, said once, and what no instruction touches. -/

namespace Sys2Proof.Machine

variable (s : State)

/-! ### The meanings that access memory -/

/-- FX33 where its three bytes fit. -/
theorem execLdBVx_fits (x : Reg) (h : s.dataBase + 3 ≤ memSize) :
    execLdBVx x s = .next
      (s.setMem (Memory.putAll s.cfg s.mem s.dataBase (decimalDigits (s.readV x)))).advancePc := by
  rw [execLdBVx, storeBytes_eq, if_pos (.inr (by rw [decimalDigits_length]; exact h))]; rfl

/-- FX33 where they do not. -/
theorem execLdBVx_out (x : Reg) (h : memSize < s.dataBase + 3) :
    execLdBVx x s = .next (takeFault (.memOutOfRange (max s.dataBase memSize) .write) s) := by
  rw [execLdBVx, storeBytes_eq, if_neg]
  · rfl
  · rw [decimalDigits_length]
    rintro (h' | h')
    · cases h'
    · omega

theorem lowV_ne_nil (x : Reg) : s.lowV x ≠ [] := by
  intro h
  have := s.length_lowV x
  rw [h] at this; simp at this

/-- FX55 where its bytes fit. -/
theorem execLdMemVx_fits (x : Reg) (h : s.dataBase + x.val + 1 ≤ memSize) :
    execLdMemVx x s = .next
      (((s.setMem (Memory.putAll s.cfg s.mem s.dataBase (s.lowV x))).bumpI x).advancePc) := by
  rw [execLdMemVx, storeBytes_eq, if_pos (.inr (by rw [State.length_lowV]; omega))]; rfl

/-- FX55 where they do not. -/
theorem execLdMemVx_out (x : Reg) (h : memSize < s.dataBase + x.val + 1) :
    execLdMemVx x s = .next (takeFault (.memOutOfRange (max s.dataBase memSize) .write) s) := by
  rw [execLdMemVx, storeBytes_eq, if_neg]
  · rfl
  · rw [State.length_lowV]
    rintro (h' | h')
    · exact lowV_ne_nil s x h'
    · omega

/-- The bytes a load of `n` bytes from the data base gives. -/
def loadedBytes (n : Nat) : List Byte := (List.range n).map (fun k => s.byteAt (s.dataBase + k))

@[simp] theorem length_loadedBytes (n : Nat) : (loadedBytes s n).length = n := by simp [loadedBytes]

theorem getD_loadedBytes {n k : Nat} (h : k < n) (b : Byte) :
    (loadedBytes s n).getD k b = s.byteAt (s.dataBase + k) := by
  simp [loadedBytes, List.getD_eq_getElem?_getD, List.getElem?_range h]

theorem getD_loadedBytes_out {n k : Nat} (h : n ≤ k) (b : Byte) : (loadedBytes s n).getD k b = b := by
  simp [List.getD_eq_getElem?_getD, List.getElem?_eq_none (show (loadedBytes s n).length ≤ k by simpa using h)]

/-- FX65 where its bytes are in range. -/
theorem execLdVxMem_fits (x : Reg) (h : s.dataBase + x.val + 1 ≤ memSize) :
    execLdVxMem x s = .next (((s.setLowV (loadedBytes s (x.val + 1))).bumpI x).advancePc) := by
  rw [execLdVxMem, loadBytes_eq, if_pos (.inr (by omega))]; rfl

/-- FX65 where they are not. -/
theorem execLdVxMem_out (x : Reg) (h : memSize < s.dataBase + x.val + 1) :
    execLdVxMem x s = .next (takeFault (.memOutOfRange (max s.dataBase memSize) .read) s) := by
  rw [execLdVxMem, loadBytes_eq, if_neg (by omega)]; rfl

/-- DXYN once its bytes are in range. -/
theorem execDrw_fits (x y : Reg) (n : Nat) (h : n = 0 ∨ s.dataBase + n ≤ memSize) :
    execDrw x y n s = commitOrFault s (drawSprite x y s (loadedBytes s n)) := by
  rw [execDrw, loadBytes_eq, if_pos h]; rfl

/-- DXYN where they are not. -/
theorem execDrw_out (x y : Reg) (n : Nat) (h0 : n ≠ 0) (h : memSize < s.dataBase + n) :
    execDrw x y n s = .next (takeFault (.memOutOfRange (max s.dataBase memSize) .read) s) := by
  rw [execDrw, loadBytes_eq, if_neg (by omega)]; rfl

/-! ### Keys -/

theorem keyAt_lt {b : Byte} (h : b.toNat < 16) : keyAt s b = .ok s.keys[b.toNat] := by
  rw [keyAt, dif_pos h]

theorem keyAt_ge {b : Byte} (h : 16 ≤ b.toNat) : keyAt s b = .error (.keyIndexOutOfRange b) := by
  rw [keyAt, dif_neg (by omega)]

@[simp] theorem mem_pressedKeys (k : Reg) : k ∈ pressedKeys s ↔ s.keys[k.val] = true := by
  simp [pressedKeys]

/-- A draw of KEY_PICK gives no key exactly when none is pressed, and else a member (R234). -/
theorem pickKey_none {n : Nat} : ∀ {ks : List Reg}, pickKey n ks = none ↔ ks = []
  | [] => by simp [pickKey]
  | [_] => by simp [pickKey]
  | _ :: _ :: _ => by simp [pickKey]

theorem pickKey_mem {n : Nat} : ∀ {ks : List Reg} {k : Reg}, pickKey n ks = some k → k ∈ ks
  | [], _, h => by simp [pickKey] at h
  | [_], _, h => by simp [pickKey] at h; simp [h]
  | a :: b :: ks, k, h => by
    simp only [pickKey, Option.some.injEq] at h
    have hlt : Config.keyPick n % (ks.length + 2) < (a :: b :: ks).length := by
      simp only [List.length_cons]; exact Nat.mod_lt _ (by omega)
    rw [List.getD_eq_getElem _ _ hlt] at h
    exact h ▸ List.getElem_mem hlt

/-! ### What no instruction touches -/

/-- The parts that only the sequencer and the host write: an instruction that completes leaves them. -/
structure Untouched (s t : State) : Prop where
  cfg : t.cfg = s.cfg
  keys : t.keys = s.keys
  loadStore : t.loadStore = s.loadStore
  shift : t.shift = s.shift
  cycleCounter : t.cycleCounter = s.cycleCounter
  stepCounter : t.stepCounter = s.stepCounter
  run : t.run = s.run
  stopIssued : t.stopIssued = s.stopIssued
  fault : t.fault = s.fault
  tickStep : t.tickStep = s.tickStep
  inputs : t.inputs = s.inputs
  outputs : t.outputs = s.outputs
  slots : t.slots = s.slots

/-- A meaning completes and leaves the host's and the sequencer's parts, or takes a fault from the state it started
in. -/
def CompletesOrFaults (s : State) (o : Outcome) : Prop :=
  (∃ t, o = .next t ∧ Untouched s t) ∨ ∃ f, o = .next (takeFault f s)

theorem completes {s : State} {o : Outcome} (t : State) (h : o = .next t) (ht : Untouched s t) :
    CompletesOrFaults s o := .inl ⟨t, h, ht⟩

theorem faults {s : State} {o : Outcome} {f : Fault} (h : o = .next (takeFault f s)) : CompletesOrFaults s o :=
  .inr ⟨f, h⟩

theorem completesOrFaults_commit {s : State} {r : Except Fault State} (h : ∀ t, r = .ok t → Untouched s t) :
    CompletesOrFaults s (commitOrFault s r) := by
  cases r with
  | ok t => exact completes t rfl (h t rfl)
  | error f => exact faults rfl

/-- Every instruction completes or takes a fault, and completing it leaves the host's and the sequencer's parts. -/
theorem exec_completesOrFaults (i : Instr) : CompletesOrFaults s (exec i s) := by
  have skip (b : Bool) : Untouched s (s.skipIf b) := by constructor <;> simp
  cases i with
  | ldBVx x =>
    rcases Nat.lt_or_ge memSize (s.dataBase + 3) with h | h
    · exact faults (execLdBVx_out s x h)
    · exact completes _ (execLdBVx_fits s x h) (by constructor <;> simp)
  | ldMemVx x =>
    rcases Nat.lt_or_ge memSize (s.dataBase + x.val + 1) with h | h
    · exact faults (execLdMemVx_out s x h)
    · exact completes _ (execLdMemVx_fits s x h) (by constructor <;> simp)
  | ldVxMem x =>
    rcases Nat.lt_or_ge memSize (s.dataBase + x.val + 1) with h | h
    · exact faults (execLdVxMem_out s x h)
    · exact completes _ (execLdVxMem_fits s x h) (by constructor <;> simp)
  | drw x y n =>
    refine completesOrFaults_commit fun t ht => ?_
    cases hl : loadBytes s s.dataBase n with
    | error f => rw [hl] at ht; cases ht
    | ok rows =>
      rw [hl] at ht
      simp only [Except.bind, drawSprite] at ht
      cases hd : drawPixels s.screen false (spritePixels (s.readV x).toNat (s.readV y).toNat rows) with
      | error f => rw [hd] at ht; cases ht
      | ok r =>
        rw [hd] at ht
        cases ht
        constructor <;> simp
  | skp x =>
    refine completesOrFaults_commit fun t ht => ?_
    cases hk : keyAt s (s.readV x) with
    | error f => rw [hk] at ht; cases ht
    | ok b => rw [hk] at ht; cases ht; exact skip _
  | sknp x =>
    refine completesOrFaults_commit fun t ht => ?_
    cases hk : keyAt s (s.readV x) with
    | error f => rw [hk] at ht; cases ht
    | ok b => rw [hk] at ht; cases ht; exact skip _
  | ldVxK x =>
    simp only [exec, execLdVxK]
    cases pickKey s.draws (pressedKeys s) with
    | none => exact completes _ rfl (by constructor <;> rfl)
    | some k => exact completes _ rfl (by constructor <;> simp)
  | seImm x nn => exact completes _ rfl (skip _)
  | sneImm x nn => exact completes _ rfl (skip _)
  | seReg x y => exact completes _ rfl (skip _)
  | sneReg x y => exact completes _ rfl (skip _)
  | cls | ret | jp | call | ldImm | addImm | mov | or | and | xor | add | sub | shr | subn | shl | ldI | jpV0 | rnd
  | ldVxDt | ldDtVx | ldStVx | addIVx | ldFVx => exact completes _ rfl (by constructor <;> simp)

end Sys2Proof.Machine
end

