-- ==== Sys2Proof/Laws/HostPort.lean ====
section
/-! SUPPORT. The laws of the host's ports: the snapshot slots, the load and the reset, each said once. -/

namespace Sys2Proof.Machine

/-! ### Snapshot slots -/

/-- A slot holds what was last saved into it. -/
theorem findSlot_putSlot (n : Nat) (p : Snapshot) :
    ∀ l : List (Nat × Snapshot), findSlot (putSlot l n p) n = some p
  | [] => by simp [putSlot, findSlot]
  | (k, q) :: rest => by
    simp only [putSlot]
    split
    · simp [findSlot]
    · split
      · simp [findSlot]
      · rename_i h
        simp [findSlot, Ne.symm h, findSlot_putSlot n p rest]

/-- Saving into one slot leaves every other one. -/
theorem findSlot_putSlot_ne {n m : Nat} (h : m ≠ n) (p : Snapshot) :
    ∀ l : List (Nat × Snapshot), findSlot (putSlot l n p) m = findSlot l m
  | [] => by simp [putSlot, findSlot, Ne.symm h]
  | (k, q) :: rest => by
    simp only [putSlot]
    split
    · simp [findSlot, Ne.symm h]
    · split
      · rename_i hk
        subst hk
        simp [findSlot, Ne.symm h]
      · simp only [findSlot, findSlot_putSlot_ne h p rest]

/-- Saving keeps the slots in rising order. -/
theorem slotsRising_putSlot (n : Nat) (p : Snapshot) :
    ∀ {lo : Nat} {l : List (Nat × Snapshot)}, lo ≤ n → slotsRising lo l = true →
      slotsRising lo (putSlot l n p) = true
  | lo, [], h, _ => by simp [putSlot, slotsRising, h]
  | lo, (k, q) :: rest, h, hr => by
    simp only [slotsRising, Bool.and_eq_true, decide_eq_true_eq] at hr
    simp only [putSlot]
    split
    · simp [slotsRising, h, hr.2]; omega
    · split
      · subst_vars; simp [slotsRising, h, hr.2]
      · simp [slotsRising, hr.1, slotsRising_putSlot n p (show k + 1 ≤ n by omega) hr.2]

/-- After a save every slot is an old one or the one saved. -/
theorem mem_putSlot {n : Nat} {p : Snapshot} {e : Nat × Snapshot} :
    ∀ {l : List (Nat × Snapshot)}, e ∈ putSlot l n p → e ∈ l ∨ e = (n, p)
  | [], h => by simp [putSlot] at h; exact .inr h
  | (k, q) :: rest, h => by
    simp only [putSlot] at h
    split at h
    · simp only [List.mem_cons] at h ⊢; tauto
    · split at h
      · simp only [List.mem_cons] at h ⊢; tauto
      · simp only [List.mem_cons] at h ⊢
        rcases h with h | h
        · tauto
        · have := mem_putSlot h; tauto

/-- What a slot is found to hold stands in the list. -/
theorem mem_of_findSlot {n : Nat} {p : Snapshot} :
    ∀ {l : List (Nat × Snapshot)}, findSlot l n = some p → (n, p) ∈ l
  | [], h => by cases h
  | (k, q) :: rest, h => by
    simp only [findSlot] at h
    split at h
    · cases h; subst_vars; simp
    · exact List.mem_cons_of_mem _ (mem_of_findSlot h)

/-! ### Load and reset -/

variable (s : State)

theorem loadRom_tooLarge {bytes : List Byte} (h : memSize < bytes.length + programBase) :
    loadRom bytes s = s.emit (.romTooLarge bytes.length) := if_pos h

theorem loadRom_fits {bytes : List Byte} (h : bytes.length + programBase ≤ memSize) :
    loadRom bytes s = s.setMem (Memory.putAll s.cfg s.mem programBase bytes) := if_neg (by omega)

/-- Memory after the reset: the font, and zero above it (R40, R400). -/
theorem resetBlock_byteAt (a : Nat) : (resetBlock s).byteAt a = unlisted s.cfg a := rfl

/-- `stop()` stops the Running block and says so. -/
theorem stopBlock_running (h : s.run = .running) : stopBlock s = { s with run := .stopped, stopIssued := true } := by
  simp only [stopBlock, h]

/-- `stop()` leaves a stopped block as it is. -/
theorem stopBlock_stopped (h : s.run = .stopped) : stopBlock s = s := by
  simp only [stopBlock, h]

/-- After `stop()` the block is stopped, and nothing but `run` and `stopIssued` has changed. -/
theorem stopBlock_eq : ∃ b, stopBlock s = { s with run := .stopped, stopIssued := b } := by
  cases h : s.run with
  | running => exact ⟨true, stopBlock_running s h⟩
  | stopped => exact ⟨s.stopIssued, by rw [stopBlock_stopped s h, ← h]⟩

/-- A command of the stopped block has its effect there, and no move while the block is Running. -/
theorem whileStopped_stopped {c : HostInput} {o : Outcome} (h : s.run = .stopped) : whileStopped c s o = o := by
  simp only [whileStopped, h]

theorem whileStopped_running {c : HostInput} {o : Outcome} (h : s.run = .running) :
    whileStopped c s o = .refused (.commandWhileRunning c) := by
  simp only [whileStopped, h]

end Sys2Proof.Machine
end

