-- ==== Sys2Proof/Laws/PerInstr.lean ====
section
/-! SUPPORT. The statements that are made once per instruction. -/

namespace Sys2Proof

/-- Family `TableRow`: the word of the well-formed instruction has the fixed bits of its row of
spec/opcode_table.json (R92). -/
def Laws.TableRow.Statement (i : Instr) : Prop := i.wellFormed = true → i.row.fits (encode i) = true

theorem Laws.TableRow.fits_two {m : String} {h l v h' l' v' : Nat} {op : Word} (h1 : bits h l op = v)
    (h2 : bits h' l' op = v') : (Row.mk m [(h, l, v), (h', l', v')]).fits op = true := by
  simp [Row.fits, h1, h2]

theorem Laws.TableRow.fits_one {m : String} {h l v : Nat} {op : Word} (h1 : bits h l op = v) :
    (Row.mk m [(h, l, v)]).fits op = true := by
  simp [Row.fits, h1]

open Laws.TableRow in
theorem Laws.TableRow.cls : Laws.TableRow.Statement .cls :=
  fun _ => by decide

open Laws.TableRow in
theorem Laws.TableRow.ret : Laws.TableRow.Statement .ret :=
  fun _ => by decide

open Laws.TableRow in
theorem Laws.TableRow.jp (nnn : Word) : Laws.TableRow.Statement (.jp nnn) :=
  fun h => fits_one (major_packNNN (by decide) (of_decide_eq_true h))

open Laws.TableRow in
theorem Laws.TableRow.call (nnn : Word) : Laws.TableRow.Statement (.call nnn) :=
  fun h => fits_one (major_packNNN (by decide) (of_decide_eq_true h))

open Laws.TableRow in
theorem Laws.TableRow.seImm (x : Reg) (nn : Byte) : Laws.TableRow.Statement (.seImm x nn) :=
  fun _ => fits_one (major_packXNN (by decide) nn.isLt x)

open Laws.TableRow in
theorem Laws.TableRow.sneImm (x : Reg) (nn : Byte) : Laws.TableRow.Statement (.sneImm x nn) :=
  fun _ => fits_one (major_packXNN (by decide) nn.isLt x)

open Laws.TableRow in
theorem Laws.TableRow.seReg (x : Reg) (y : Reg) : Laws.TableRow.Statement (.seReg x y) :=
  fun _ => fits_one (major_packXYN (by decide) (by decide) x y)

open Laws.TableRow in
theorem Laws.TableRow.ldImm (x : Reg) (nn : Byte) : Laws.TableRow.Statement (.ldImm x nn) :=
  fun _ => fits_one (major_packXNN (by decide) nn.isLt x)

open Laws.TableRow in
theorem Laws.TableRow.addImm (x : Reg) (nn : Byte) : Laws.TableRow.Statement (.addImm x nn) :=
  fun _ => fits_one (major_packXNN (by decide) nn.isLt x)

open Laws.TableRow in
theorem Laws.TableRow.mov (x : Reg) (y : Reg) : Laws.TableRow.Statement (.mov x y) :=
  fun _ => fits_two (fieldN_packXYN (by decide) (by decide) x y) (major_packXYN (by decide) (by decide) x y)

open Laws.TableRow in
theorem Laws.TableRow.or (x : Reg) (y : Reg) : Laws.TableRow.Statement (.or x y) :=
  fun _ => fits_two (fieldN_packXYN (by decide) (by decide) x y) (major_packXYN (by decide) (by decide) x y)

open Laws.TableRow in
theorem Laws.TableRow.and (x : Reg) (y : Reg) : Laws.TableRow.Statement (.and x y) :=
  fun _ => fits_two (fieldN_packXYN (by decide) (by decide) x y) (major_packXYN (by decide) (by decide) x y)

open Laws.TableRow in
theorem Laws.TableRow.xor (x : Reg) (y : Reg) : Laws.TableRow.Statement (.xor x y) :=
  fun _ => fits_two (fieldN_packXYN (by decide) (by decide) x y) (major_packXYN (by decide) (by decide) x y)

open Laws.TableRow in
theorem Laws.TableRow.add (x : Reg) (y : Reg) : Laws.TableRow.Statement (.add x y) :=
  fun _ => fits_two (fieldN_packXYN (by decide) (by decide) x y) (major_packXYN (by decide) (by decide) x y)

open Laws.TableRow in
theorem Laws.TableRow.sub (x : Reg) (y : Reg) : Laws.TableRow.Statement (.sub x y) :=
  fun _ => fits_two (fieldN_packXYN (by decide) (by decide) x y) (major_packXYN (by decide) (by decide) x y)

open Laws.TableRow in
theorem Laws.TableRow.shr (x : Reg) (y : Reg) : Laws.TableRow.Statement (.shr x y) :=
  fun _ => fits_two (fieldN_packXYN (by decide) (by decide) x y) (major_packXYN (by decide) (by decide) x y)

open Laws.TableRow in
theorem Laws.TableRow.subn (x : Reg) (y : Reg) : Laws.TableRow.Statement (.subn x y) :=
  fun _ => fits_two (fieldN_packXYN (by decide) (by decide) x y) (major_packXYN (by decide) (by decide) x y)

open Laws.TableRow in
theorem Laws.TableRow.shl (x : Reg) (y : Reg) : Laws.TableRow.Statement (.shl x y) :=
  fun _ => fits_two (fieldN_packXYN (by decide) (by decide) x y) (major_packXYN (by decide) (by decide) x y)

open Laws.TableRow in
theorem Laws.TableRow.sneReg (x : Reg) (y : Reg) : Laws.TableRow.Statement (.sneReg x y) :=
  fun _ => fits_one (major_packXYN (by decide) (by decide) x y)

open Laws.TableRow in
theorem Laws.TableRow.ldI (nnn : Word) : Laws.TableRow.Statement (.ldI nnn) :=
  fun h => fits_one (major_packNNN (by decide) (of_decide_eq_true h))

open Laws.TableRow in
theorem Laws.TableRow.jpV0 (nnn : Word) : Laws.TableRow.Statement (.jpV0 nnn) :=
  fun h => fits_one (major_packNNN (by decide) (of_decide_eq_true h))

open Laws.TableRow in
theorem Laws.TableRow.rnd (x : Reg) (nn : Byte) : Laws.TableRow.Statement (.rnd x nn) :=
  fun _ => fits_one (major_packXNN (by decide) nn.isLt x)

open Laws.TableRow in
theorem Laws.TableRow.drw (x : Reg) (y : Reg) (n : Nat) : Laws.TableRow.Statement (.drw x y n) :=
  fun h => fits_one (major_packXYN (by decide) (of_decide_eq_true h) x y)

open Laws.TableRow in
theorem Laws.TableRow.skp (x : Reg) : Laws.TableRow.Statement (.skp x) :=
  fun _ => fits_two (low_packXNN (by decide) (by decide) x) (major_packXNN (by decide) (by decide) x)

open Laws.TableRow in
theorem Laws.TableRow.sknp (x : Reg) : Laws.TableRow.Statement (.sknp x) :=
  fun _ => fits_two (low_packXNN (by decide) (by decide) x) (major_packXNN (by decide) (by decide) x)

open Laws.TableRow in
theorem Laws.TableRow.ldVxDt (x : Reg) : Laws.TableRow.Statement (.ldVxDt x) :=
  fun _ => fits_two (low_packXNN (by decide) (by decide) x) (major_packXNN (by decide) (by decide) x)

open Laws.TableRow in
theorem Laws.TableRow.ldVxK (x : Reg) : Laws.TableRow.Statement (.ldVxK x) :=
  fun _ => fits_two (low_packXNN (by decide) (by decide) x) (major_packXNN (by decide) (by decide) x)

open Laws.TableRow in
theorem Laws.TableRow.ldDtVx (x : Reg) : Laws.TableRow.Statement (.ldDtVx x) :=
  fun _ => fits_two (low_packXNN (by decide) (by decide) x) (major_packXNN (by decide) (by decide) x)

open Laws.TableRow in
theorem Laws.TableRow.ldStVx (x : Reg) : Laws.TableRow.Statement (.ldStVx x) :=
  fun _ => fits_two (low_packXNN (by decide) (by decide) x) (major_packXNN (by decide) (by decide) x)

open Laws.TableRow in
theorem Laws.TableRow.addIVx (x : Reg) : Laws.TableRow.Statement (.addIVx x) :=
  fun _ => fits_two (low_packXNN (by decide) (by decide) x) (major_packXNN (by decide) (by decide) x)

open Laws.TableRow in
theorem Laws.TableRow.ldFVx (x : Reg) : Laws.TableRow.Statement (.ldFVx x) :=
  fun _ => fits_two (low_packXNN (by decide) (by decide) x) (major_packXNN (by decide) (by decide) x)

open Laws.TableRow in
theorem Laws.TableRow.ldBVx (x : Reg) : Laws.TableRow.Statement (.ldBVx x) :=
  fun _ => fits_two (low_packXNN (by decide) (by decide) x) (major_packXNN (by decide) (by decide) x)

open Laws.TableRow in
theorem Laws.TableRow.ldMemVx (x : Reg) : Laws.TableRow.Statement (.ldMemVx x) :=
  fun _ => fits_two (low_packXNN (by decide) (by decide) x) (major_packXNN (by decide) (by decide) x)

open Laws.TableRow in
theorem Laws.TableRow.ldVxMem (x : Reg) : Laws.TableRow.Statement (.ldVxMem x) :=
  fun _ => fits_two (low_packXNN (by decide) (by decide) x) (major_packXNN (by decide) (by decide) x)

end Sys2Proof
end

