-- ==== Sys2Proof/Laws/Step.lean ====
section
/-! SUPPORT. What fetch, a step, the end of a step and a host input can do, each said once. -/

namespace Sys2Proof.Machine

variable {s s0 t : State}

/-! ### Fetch -/

theorem fetch_inRange (h : s.pc.toNat + 1 < memSize) :
    fetch s = .ok (wordOfBytes (s.byteAt s.pc.toNat) (s.byteAt (s.pc.toNat + 1))) := by
  simp only [fetch, memRead]
  rw [if_neg (by omega), if_neg (by omega)]

theorem fetch_lastByte (h : s.pc.toNat + 1 = memSize) : fetch s = .error (.memOutOfRange memSize .fetch) := by
  simp only [fetch, memRead]
  rw [if_neg (by omega), if_pos (by omega), h]

theorem fetch_outside (h : memSize ≤ s.pc.toNat) : fetch s = .error (.memOutOfRange s.pc.toNat .fetch) := by
  simp only [fetch, memRead]
  rw [if_pos h]

/-- Fetch looks at PC and at memory only. -/
theorem fetch_congr (hpc : t.pc = s.pc) (hmem : ∀ a, t.byteAt a = s.byteAt a) : fetch t = fetch s := by
  simp only [fetch, memRead, hpc, hmem]

/-! ### Where a step starts -/

theorem active_iff : s.active = true ↔ s.run = .running ∧ s.fault = none := by
  simp [State.active]

theorem stepStart_eq_some : stepStart s = some s0 ↔ StepStartsAt s s0 := by
  have flip (a : State) : some a = some s0 ↔ s0 = a := by rw [Option.some.injEq]; exact eq_comm
  unfold stepStart StepStartsAt
  by_cases ha : s.active = true
  · rw [if_pos ha]
    by_cases ht : s.tickStep = 0
    · rw [if_pos ht]
      rcases hi : s.inputs with _ | ⟨c, rest⟩
      · simp [ha, ht, flip]
      · cases c <;> simp [ha, ht, flip]
    · simp [ha, ht, flip]
  · simp [ha]

theorem step_of_start (h : StepStartsAt s s0) : step s = instructionStep s0 := by
  simp only [step, move, stepStart_eq_some.2 h]

theorem step_of_no_start (h : ∀ s0, ¬ StepStartsAt s s0) : step s = hostMove s := by
  have : stepStart s = none := by
    cases hs : stepStart s with
    | none => rfl
    | some s0 => exact absurd (stepStart_eq_some.1 hs) (h s0)
  simp only [step, move, this]

/-- The state a step starts in differs from the state before it in the inputs only. -/
theorem StepStartsAt.eq_inputs (h : StepStartsAt s s0) : s0 = { s with inputs := s0.inputs } := by
  obtain ⟨-, ⟨-, rfl⟩ | ⟨-, rest, -, rfl⟩⟩ := h <;> rfl

theorem not_start_of_inactive (h : s.active = false) : ∀ s0, ¬ StepStartsAt s s0 := by
  rintro s0 ⟨ha, -⟩
  rw [h] at ha; cases ha

theorem not_start_of_input {c : HostInput} {rest : List HostInput} (ht : s.tickStep = 0) (hi : s.inputs = c :: rest)
    (hc : c ≠ .tick) : ∀ s0, ¬ StepStartsAt s s0 := by
  rintro s0 ⟨-, ⟨h | h, -⟩ | ⟨-, r, h, -⟩⟩
  · exact h ht
  · rw [hi] at h; cases h
  · rw [hi] at h; cases h; exact hc rfl

/-! ### The end of a step -/

/-- What the redraw check emits. -/
def redrawOutput (t : State) : List Output := if t.redraw then [.redraw t.screen.bytes] else []

theorem flushRedraw_eq (t : State) :
    flushRedraw t = { t with redraw := false, outputs := t.outputs ++ redrawOutput t } := by
  unfold flushRedraw redrawOutput
  cases h : t.redraw
  · cases t; simp at h; subst h; simp
  · simp

/-- The end of a step inside the tick. -/
theorem endStep_inside (h : t.tickStep + 1 < t.cfg.stepsPerTick) :
    endStep t =
      { t with
        stepCounter := t.stepCounter + 1
        redraw := false
        outputs := t.outputs ++ redrawOutput t
        tickStep := t.tickStep + 1 } := by
  rw [endStep, flushRedraw_eq]
  simp only [nextInTick, h, ↓reduceIte]
  rfl

/-- The end of the last step of a tick. -/
theorem endStep_last (h : t.cfg.stepsPerTick ≤ t.tickStep + 1) :
    endStep t =
      { t with
        stepCounter := t.stepCounter + 1
        redraw := false
        outputs := t.outputs ++ redrawOutput t ++ [soundLevel (countDown t.st)]
        tickStep := 0
        dt := countDown t.dt
        st := countDown t.st
        cycleCounter := t.cycleCounter + 1 } := by
  rw [endStep, flushRedraw_eq]
  simp only [nextInTick, show ¬ t.tickStep + 1 < t.cfg.stepsPerTick by omega, ↓reduceIte]
  rfl

theorem toNat_countDown (b : Byte) : (countDown b).toNat = b.toNat - 1 := by
  have := b.isLt
  simp only [countDown, BitVec.toNat_ofNat]; omega

/-- What a step of the instruction stream can do: take a fault from the state it starts in, or run an instruction
that completes, and then end the step. -/
theorem instructionStep_cases (s0 : State) :
    (∃ f, instructionStep s0 = .next (takeFault f s0)) ∨
      ∃ op i t, fetch s0 = .ok op ∧ decode op = .ok i ∧ exec i s0 = .next t ∧ Untouched s0 t ∧
        instructionStep s0 = .next (finish t) := by
  unfold instructionStep
  cases hf : fetch s0 with
  | error f => exact .inl ⟨f, rfl⟩
  | ok op =>
    simp only [runWord]
    cases hd : decode op with
    | error e => exact .inl ⟨_, rfl⟩
    | ok i =>
      rcases exec_completesOrFaults s0 i with ⟨t, ht, hu⟩ | ⟨f, hx⟩
      · exact .inr ⟨op, i, t, rfl, hd, ht, hu, by simp only [ht, finishOutcome]⟩
      · exact .inl ⟨f, by simp [hx, finishOutcome, finish]⟩

/-- What the end of a step leaves. -/
theorem endStep_keeps (t : State) :
    (endStep t).fault = t.fault ∧ (endStep t).run = t.run ∧ (endStep t).inputs = t.inputs ∧ (endStep t).cfg = t.cfg ∧
      (endStep t).stopIssued = t.stopIssued := by
  rcases Nat.lt_or_ge (t.tickStep + 1) t.cfg.stepsPerTick with h | h
  · rw [endStep_inside h]; exact ⟨rfl, rfl, rfl, rfl, rfl⟩
  · rw [endStep_last h]; exact ⟨rfl, rfl, rfl, rfl, rfl⟩

theorem finish_of_none (h : t.fault = none) : finish t = endStep t := by simp [finish, h]

/-! ### Runs -/

theorem run_of_step {k : Nat} (h : step s = .next s0) :
    Sys2Proof.core.run (k + 1) s = Sys2Proof.core.run k s0 := by
  have h' : Sys2Proof.core.step s = .next s0 := h
  simp only [Host.Core.run, h']

/-- A run that goes on has made its first move. -/
theorem step_of_run {k : Nat} (h : Sys2Proof.core.run (k + 1) s = .next t) :
    ∃ u, step s = .next u ∧ Sys2Proof.core.run k u = .next t := by
  cases hs : step s with
  | next u => rw [run_of_step hs] at h; exact ⟨u, rfl, h⟩
  | fault f =>
    have h' : Sys2Proof.core.step s = .fault f := hs
    simp only [Host.Core.run, h'] at h; cases h
  | refused r =>
    have h' : Sys2Proof.core.step s = .refused r := hs
    simp only [Host.Core.run, h'] at h; cases h

end Sys2Proof.Machine
end

