-- ==== Sys2Proof/Tests/Slice0.lean ====
section
/-! SUPPORT. The model's own tests. Expected results are those of spec/95_test_vectors.md, named in each docstring,
or written out from the encoding of spec/30_encoding.md; then one witness for the hypotheses of each statement. -/

namespace Sys2Proof.Tests

open Sys2Proof Sys2Proof.Machine

/-! ### Helpers -/

/-- A configuration with all glyph bytes 0, so that memory can be evaluated. -/
def cfg0 : Config := ⟨10, 60, Vector.replicate 80 0⟩

/-- The reset state under that configuration. -/
def s0 : State := { State.reset with cfg := cfg0 }

/-- Registers set one after another. -/
def withV (s : State) (l : List (Reg × Byte)) : State := l.foldl (fun t e => t.setV e.1 e.2) s

/-- Bytes put into memory from `a` on. -/
def withMem (s : State) (a : Nat) (bs : List Byte) : State := s.setMem (Memory.putAll s.cfg s.mem a bs)

/-- Keys pressed. -/
def withKeys (s : State) (ks : List Reg) : State :=
  { s with keys := Vector.ofFn (fun k : Fin 16 => ks.contains k) }

/-- The outcome is a next state of which `p` holds. -/
def answers (o : Outcome) (p : State → Bool) : Bool :=
  match o with
  | .next t => p t
  | _ => false

theorem exists_of_answers {o : Outcome} {p : State → Bool} (h : answers o p = true) :
    ∃ t, o = .next t ∧ p t = true := by
  cases o with
  | next t => exact ⟨t, rfl, h⟩
  | fault f => cases h
  | refused r => cases h

/-- One step that runs the word `w` in `s`. -/
def runs (s : State) (w : Nat) (p : State → Bool) : Bool := answers (step (s.withFetchWord 16 w)) p

/-- The fault that a step left, with the address of the faulting instruction. -/
def faultIs (f : Fault) (pc : Word) (t : State) : Bool :=
  decide (t.fault = some ⟨f, pc⟩) && decide (t.run = .stopped) && decide (t.pc = pc)

/-! ### WellFormed refuses what has no encoding -/

theorem test_illFormed_jp : (Instr.jp 0x1000).wellFormed = false := by decide
theorem test_illFormed_call : (Instr.call 0xFFFF).wellFormed = false := by decide
theorem test_illFormed_ldI : (Instr.ldI 0x1000).wellFormed = false := by decide
theorem test_illFormed_jpV0 : (Instr.jpV0 0x2345).wellFormed = false := by decide
theorem test_illFormed_drw : (Instr.drw 0 0 16).wellFormed = false := by decide

/-! ### Every constructor's word, written out from R83 and R92 -/

theorem test_decode_fixed :
    decodeTableWord 16 0x00E0 = some .cls ∧ decodeTableWord 16 0x00EE = some .ret := by decide

theorem test_decode_nnn :
    decodeTableWord 16 0x1ABC = some (.jp 0xABC) ∧ decodeTableWord 16 0x2DEF = some (.call 0xDEF) ∧
      decodeTableWord 16 0xA123 = some (.ldI 0x123) ∧ decodeTableWord 16 0xB456 = some (.jpV0 0x456) := by decide

theorem test_decode_xnn :
    decodeTableWord 16 0x31FE = some (.seImm 1 0xFE) ∧ decodeTableWord 16 0x42DC = some (.sneImm 2 0xDC) ∧
      decodeTableWord 16 0x63BA = some (.ldImm 3 0xBA) ∧ decodeTableWord 16 0x7498 = some (.addImm 4 0x98) ∧
        decodeTableWord 16 0xC576 = some (.rnd 5 0x76) := by decide

theorem test_decode_xy :
    decodeTableWord 16 0x5120 = some (.seReg 1 2) ∧ decodeTableWord 16 0x9340 = some (.sneReg 3 4) ∧
      decodeTableWord 16 0x8120 = some (.mov 1 2) ∧ decodeTableWord 16 0x8341 = some (.or 3 4) ∧
        decodeTableWord 16 0x8562 = some (.and 5 6) ∧ decodeTableWord 16 0x8783 = some (.xor 7 8) := by decide

theorem test_decode_xy_flags :
    decodeTableWord 16 0x89A4 = some (.add 9 0xA) ∧ decodeTableWord 16 0x8BC5 = some (.sub 0xB 0xC) ∧
      decodeTableWord 16 0x8DE6 = some (.shr 0xD 0xE) ∧ decodeTableWord 16 0x8F07 = some (.subn 0xF 0) ∧
        decodeTableWord 16 0x812E = some (.shl 1 2) := by decide

theorem test_decode_xyn : decodeTableWord 16 0xD12F = some (.drw 1 2 15) := by decide

theorem test_decode_xfn :
    decodeTableWord 16 0xE19E = some (.skp 1) ∧ decodeTableWord 16 0xE2A1 = some (.sknp 2) ∧
      decodeTableWord 16 0xF307 = some (.ldVxDt 3) ∧ decodeTableWord 16 0xF40A = some (.ldVxK 4) ∧
        decodeTableWord 16 0xF515 = some (.ldDtVx 5) ∧ decodeTableWord 16 0xF618 = some (.ldStVx 6) := by decide

theorem test_decode_xfn_index :
    decodeTableWord 16 0xF71E = some (.addIVx 7) ∧ decodeTableWord 16 0xF829 = some (.ldFVx 8) ∧
      decodeTableWord 16 0xF933 = some (.ldBVx 9) ∧ decodeTableWord 16 0xFA55 = some (.ldMemVx 0xA) ∧
        decodeTableWord 16 0xFB65 = some (.ldVxMem 0xB) := by decide

/-- The low nibble of the majors 5 and 9 is ignored (R86). -/
theorem test_decode_lowNibble :
    decodeTableWord 16 0x512F = some (.seReg 1 2) ∧ decodeTableWord 16 0x9341 = some (.sneReg 3 4) := by decide

/-- DE1 to DE9. -/
theorem test_decode_unknown :
    [0x0000, 0x0123, 0x00E1, 0x00FE, 0x8AB8, 0x800F, 0xE1A2, 0xF0FF, 0xF075].all
      (fun w => (decodeTableWord 16 w).isNone) = true := by decide

theorem test_decode_truncated : decodeBytes [0x12] = .error .truncated := by decide

/-! ### Control transfer -/

/-- CT1. -/
theorem test_ret :
    runs (s0.push 0x204) 0x00EE (fun t => decide (t.sp = 0) && t.pc == 0x206 && t.stackAt 0 == 0x204) = true := by
  decide

/-- CT2: RET on the empty stack wraps and raises no fault. -/
theorem test_ret_empty :
    runs s0 0x00EE (fun t => decide (t.sp = 15) && t.pc == 0x002 && t.fault.isNone) = true := by decide

/-- CT6. -/
theorem test_jp_odd : runs s0 0x1333 (fun t => t.pc == 0x333) = true := by decide

/-- CT4. -/
theorem test_call :
    runs (s0.setPc 0x204) 0x2210
      (fun t => t.stackAt 0 == 0x204 && decide (t.sp = 1) && t.pc == 0x210) = true := by decide

/-- CT5: the pointer wraps. -/
theorem test_call_wraps :
    runs ({ s0 with sp := 15 }.setPc 0x230) 0x2400
      (fun t => t.stackAt 15 == 0x230 && decide (t.sp = 0) && t.pc == 0x400) = true := by decide

/-- CT10. -/
theorem test_seImm_taken : runs (s0.setPc 0xFFE) 0x3000 (fun t => t.pc == 0x002) = true := by decide

/-- CT9. -/
theorem test_seImm_untaken : runs s0 0x3001 (fun t => t.pc == 0x202) = true := by decide

/-- CT14, CT15. -/
theorem test_sneImm_taken : runs (withV s0 [(3, 0x10)]) 0x4311 (fun t => t.pc == 0x204) = true := by decide
theorem test_sneImm_untaken : runs (withV s0 [(3, 0x11)]) 0x4311 (fun t => t.pc == 0x202) = true := by decide

/-- CT17, and the same registers differing. -/
theorem test_seReg_taken :
    runs (withV s0 [(1, 7), (2, 7)]) 0x5121 (fun t => t.pc == 0x204) = true := by decide
theorem test_seReg_untaken :
    runs (withV s0 [(1, 7), (2, 8)]) 0x5120 (fun t => t.pc == 0x202) = true := by decide

/-- CT18, CT19. -/
theorem test_sneReg_taken :
    runs (withV s0 [(1, 7), (2, 8)]) 0x9120 (fun t => t.pc == 0x204) = true := by decide
theorem test_sneReg_untaken :
    runs (withV s0 [(1, 7), (2, 7)]) 0x912F (fun t => t.pc == 0x202) = true := by decide

/-- CT21, CT22. -/
theorem test_jpV0_wraps : runs (withV s0 [(0, 0xFF)]) 0xBFFF (fun t => t.pc == 0x0FE) = true := by decide
theorem test_jpV0_uses_V0 :
    runs (withV s0 [(0, 2), (5, 0x40)]) 0xB5FF (fun t => t.pc == 0x601) = true := by decide

/-! ### Loads and ALU -/

/-- EX1. -/
theorem test_ldImm : runs (s0.setPc 0xFFE) 0x6005 (fun t => t.readV 0 == 5 && t.pc == 0) = true := by decide

/-- AL3, AL4. -/
theorem test_addImm :
    runs (withV s0 [(0, 0xFF), (15, 7)]) 0x7002 (fun t => t.readV 0 == 1 && t.readV 15 == 7) = true := by decide
theorem test_addImm_VF : runs (withV s0 [(15, 0xFF)]) 0x7F01 (fun t => t.readV 15 == 0) = true := by decide

/-- AL5. -/
theorem test_mov : runs (withV s0 [(1, 0x3C)]) 0x8010 (fun t => t.readV 0 == 0x3C) = true := by decide

/-- AL6, AL7, AL8, AL9. -/
theorem test_or :
    runs (withV s0 [(0, 0x0F), (1, 0xF0), (15, 5)]) 0x8011
      (fun t => t.readV 0 == 0xFF && t.readV 15 == 5) = true := by decide
theorem test_and :
    runs (withV s0 [(0, 0x3C), (1, 0x0F)]) 0x8012 (fun t => t.readV 0 == 0x0C) = true := by decide
theorem test_xor :
    runs (withV s0 [(0, 0x3C), (1, 0x0F)]) 0x8013 (fun t => t.readV 0 == 0x33) = true := by decide
theorem test_xor_self : runs (withV s0 [(7, 0x5A)]) 0x8773 (fun t => t.readV 7 == 0) = true := by decide

/-- EX4, AL14. -/
theorem test_add :
    runs (withV s0 [(0, 0xF1), (1, 0xF2)]) 0x8014 (fun t => t.readV 0 == 0xE3 && t.readV 15 == 1) = true := by
  decide
theorem test_add_VF : runs (withV s0 [(15, 0xF0), (1, 0x20)]) 0x8F14 (fun t => t.readV 15 == 1) = true := by
  decide

/-- EX6, AL16. -/
theorem test_sub :
    runs (withV s0 [(0, 2), (1, 3)]) 0x8015 (fun t => t.readV 0 == 0xFF && t.readV 15 == 0) = true := by decide
theorem test_sub_equal :
    runs (withV s0 [(0, 5), (1, 5)]) 0x8015 (fun t => t.readV 0 == 0 && t.readV 15 == 1) = true := by decide

/-- EX7, EX8. -/
theorem test_shr :
    runs (withV s0 [(0, 0x80), (1, 5)]) 0x8016
      (fun t => t.readV 0 == 2 && t.readV 15 == 1 && t.readV 1 == 5) = true := by decide
theorem test_shr_quirk :
    runs (withV { s0 with shift := true } [(0, 0x80), (1, 5)]) 0x8016
      (fun t => t.readV 0 == 0x40 && t.readV 15 == 0) = true := by decide

/-- AL20, AL21. -/
theorem test_subn :
    runs (withV s0 [(0, 3), (1, 5)]) 0x8017 (fun t => t.readV 0 == 2 && t.readV 15 == 1) = true := by decide
theorem test_subn_borrow :
    runs (withV s0 [(0, 1)]) 0x8017 (fun t => t.readV 0 == 0xFF && t.readV 15 == 0) = true := by decide

/-- AL31, AL29. -/
theorem test_shl :
    runs (withV s0 [(15, 0x41)]) 0x80FE (fun t => t.readV 0 == 0x82 && t.readV 15 == 0) = true := by decide
theorem test_shl_quirk :
    runs (withV { s0 with shift := true } [(2, 0x81), (3, 0x55)]) 0x823E
      (fun t => t.readV 2 == 2 && t.readV 15 == 1 && t.readV 3 == 0x55) = true := by decide

/-- AL34, for whatever byte is drawn. -/
theorem test_rnd_masked_to_zero :
    ∃ t, step (s0.withFetchWord 16 0xC300) = .next t ∧ t.readV 3 = 0 ∧ t.pc = 0x202 := ⟨_, rfl, BitVec.and_zero, rfl⟩

/-! ### Index register and memory -/

/-- IM2, IM4. -/
theorem test_ldI : runs s0 0xAFFF (fun t => t.i == 0xFFF && t.pc == 0x202) = true := by decide
theorem test_addIVx :
    runs (withV (s0.setI 0xFF0) [(2, 0xFF), (15, 7)]) 0xF21E (fun t => t.i == 0x0EF && t.readV 15 == 7) = true := by
  decide

/-- IM6, IM8. -/
theorem test_ldFVx : runs (withV s0 [(0, 0x0A)]) 0xF029 (fun t => t.i == 0x032) = true := by decide
theorem test_ldFVx_whole : runs (withV s0 [(0, 0xFF)]) 0xF029 (fun t => t.i == 0x4FB) = true := by decide

/-- IM12, IM13. -/
theorem test_ldBVx :
    runs (withV (s0.setI 0xFFD) [(0, 0x7B)]) 0xF033
      (fun t => t.byteAt 0xFFD == 1 && t.byteAt 0xFFE == 2 && t.byteAt 0xFFF == 3 && t.i == 0xFFD) = true := by decide
theorem test_ldBVx_out :
    runs (withV (s0.setI 0xFFE) [(0, 0x7B)]) 0xF033
      (fun t => faultIs (.memOutOfRange 0x1000 .write) 0x200 t && t.byteAt 0xFFE == 0 && t.stepCounter == 0) = true := by
  decide

/-- IM15, IM16. -/
theorem test_ldMemVx :
    runs (withV (s0.setI 0xFFC) [(0, 1), (1, 2), (2, 3), (3, 4)]) 0xF355
      (fun t => t.byteAt 0xFFC == 1 && t.byteAt 0xFFF == 4 && t.i == 0) = true := by decide
theorem test_ldMemVx_out :
    runs (withV (s0.setI 0xFF8) [(0, 1)]) 0xF855
      (fun t => faultIs (.memOutOfRange 0x1000 .write) 0x200 t && t.byteAt 0xFF8 == 0 && t.i == 0xFF8) = true := by
  decide

/-- IM19, IM21. -/
theorem test_ldVxMem :
    runs { withMem (s0.setI 0x300) 0x300 [2, 5, 4, 9] with loadStore := true } 0xF265
      (fun t => t.readV 0 == 2 && t.readV 1 == 5 && t.readV 2 == 4 && t.readV 3 == 0 && t.i == 0x300) = true := by
  decide
theorem test_ldVxMem_out :
    runs (s0.setI 0xFFF) 0xF165 (faultIs (.memOutOfRange 0x1000 .read) 0x200) = true := by decide

/-! ### Screen -/

/-- SC3. -/
theorem test_drw :
    runs (withMem (s0.setI 0x300) 0x300 [0xC0]) 0xD011
      (fun t => t.screen.pixel 0 0 && t.screen.pixel 1 0 && !t.screen.pixel 2 0 && t.readV 15 == 0 && !t.redraw &&
        t.outputs.length == 1) = true := by decide

/-- SC9. -/
theorem test_drw_out :
    runs (withV (withMem (s0.setI 0x300) 0x300 [0xF8]) [(0, 0x3C)]) 0xD011
      (fun t => faultIs (.drawOutOfRange 64 0) 0x200 t && !t.screen.pixel 60 0) = true := by decide

/-- EX2, with one pixel set before. -/
theorem test_cls :
    runs { s0 with screen := Screen.blank.toggle 63 31 } 0x00E0
      (fun t => !t.screen.pixel 63 31 && t.pc == 0x202 && !t.redraw && t.outputs.length == 1) = true := by decide

/-! ### Keys and timers -/

/-- KT1, KT5. -/
theorem test_skp :
    runs (withV (withKeys s0 [0xA]) [(5, 0xA)]) 0xE59E (fun t => t.pc == 0x204) = true := by decide
theorem test_skp_out :
    runs (withV s0 [(5, 0x10)]) 0xE59E (faultIs (.keyIndexOutOfRange 0x10) 0x200) = true := by decide

/-- KT3, KT4. -/
theorem test_sknp :
    runs (withV (withKeys s0 [0xA]) [(5, 0xA)]) 0xE5A1 (fun t => t.pc == 0x202) = true := by decide
theorem test_sknp_unpressed : runs (withV s0 [(5, 3)]) 0xE5A1 (fun t => t.pc == 0x204) = true := by decide

/-- KT7. -/
theorem test_ldVxDt : runs { s0 with dt := 3 } 0xF107 (fun t => t.readV 1 == 3) = true := by decide

/-- KT8, KT10. -/
theorem test_ldVxK_waits :
    runs s0 0xF30A (fun t => t.pc == 0x200 && t.readV 3 == 0 && t.stepCounter == 1) = true := by decide
theorem test_ldVxK :
    runs (withKeys s0 [0xF]) 0xFF0A (fun t => t.readV 15 == 15 && t.pc == 0x202) = true := by decide

/-- KT11, KT12. -/
theorem test_ldDtVx : runs (withV s0 [(0, 3)]) 0xF015 (fun t => t.dt == 3) = true := by decide
theorem test_ldStVx : runs (withV s0 [(2, 0x1E)]) 0xF218 (fun t => t.st == 0x1E) = true := by decide

/-! ### Fetch, faults and the tick -/

/-- EX17. -/
theorem test_unknown : runs s0 0xFFFF (faultIs (.unknownOpcode 0xFFFF) 0x200) = true := by decide

/-- DE10, DE11. -/
theorem test_fetch_lastByte :
    answers (step { s0.setPc 0xFFF with run := .running }) (faultIs (.memOutOfRange 0x1000 .fetch) 0xFFF) = true := by
  decide
theorem test_fetch_odd :
    runs (s0.setPc 0x201) 0x6042 (fun t => t.readV 0 == 0x42 && t.pc == 0x203) = true := by decide

/-- TE3: the last step of a tick, with ST = 1, ends it with SoundOff; DT goes down. -/
theorem test_tick_end :
    runs { s0 with tickStep := 9, dt := 5, st := 1 } 0x1200
      (fun t => t.tickStep == 0 && t.dt == 4 && t.st == 0 && t.cycleCounter == 1 &&
        decide (t.outputs = [.soundOff])) = true := by decide

/-! ### Witnesses: for each statement with hypotheses, something that meets all of them together -/

/-- The block Running at 0x200, with no host input there and the word `w` at PC. -/
def placed (w : Nat) : State := s0.withFetchWord 16 w

theorem starts (s : State) (h : s.active = true) (hi : s.inputs = []) : StepStartsAt s s := ⟨h, .inl ⟨.inr hi, rfl⟩⟩

theorem witness_DecodeOfEncode :
    (Instr.jp 0xFFF).wellFormed = true ∧ (Instr.jpV0 0).wellFormed = true ∧ (Instr.drw 15 15 15).wellFormed = true := by
  decide

theorem witness_EncodeOfDecode :
    decode 0x512F = .ok (.seReg 1 2) ∧ decode 0x934F = .ok (.sneReg 3 4) ∧ decode 0xFF65 = .ok (.ldVxMem 15) := by
  decide

theorem witness_DecodedWordFits :
    decode 0x8FFE = .ok (.shl 15 15) ∧ decode 0x8FFF = .error (.unknownOpcode 0x8FFF) := by decide

/-- The boundary words of R87 (a) to (d). -/
theorem witness_UnknownWords_words :
    UnknownWord 0x0000 ∧ UnknownWord 0x0FFF ∧ UnknownWord 0x00E1 ∧ UnknownWord 0x8008 ∧ UnknownWord 0x8FFF ∧
      UnknownWord 0xE09D ∧ UnknownWord 0xEFA2 ∧ UnknownWord 0xF066 := by
  refine ⟨?_, ?_, ?_, ?_, ?_, ?_, ?_, ?_⟩ <;> unfold UnknownWord <;> decide

/-- Words next to them that are none. -/
theorem witness_KnownWords :
    ¬ UnknownWord 0x00E0 ∧ ¬ UnknownWord 0x00EE ∧ ¬ UnknownWord 0x8007 ∧ ¬ UnknownWord 0x800E ∧
      ¬ UnknownWord 0xE09E ∧ ¬ UnknownWord 0xF065 := by
  refine ⟨?_, ?_, ?_, ?_, ?_, ?_⟩ <;> unfold UnknownWord <;> decide

theorem witness_UnknownWords_step :
    StepStartsAt (placed 0x8008) (placed 0x8008) ∧ fetch (placed 0x8008) = .ok 0x8008 ∧ UnknownWord 0x8008 :=
  ⟨starts _ (by decide) rfl, by decide, by unfold UnknownWord; decide⟩

theorem witness_LowNibble : bits 15 12 0x512F = 0x5 ∧ bits 15 12 0x934F = 0x9 := by decide

/-- Words of each form of encoding that the statements speak of. -/
theorem witness_WordsDecodeTo :
    OfMajor 0x6 0x6005 ∧ OfMajor 0xD 0xD12F ∧ OfAlu 0x4 0x8FF4 ∧ OfAlu 0xE 0x801E ∧ OfFunction 0xE 0xA1 0xE5A1 ∧
      OfFunction 0xF 0x65 0xFF65 := by
  refine ⟨?_, ?_, ?_, ?_, ?_, ?_⟩ <;> (simp only [OfMajor, OfAlu, OfFunction]; decide)

theorem witness_Fetch :
    (s0.setPc 0xFFE).pc.toNat + 1 < 0x1000 ∧ (s0.setPc 0xFFF).pc.toNat = 0xFFF ∧
      0x1000 ≤ (s0.setPc 0x1000).pc.toNat := by decide

theorem witness_StepRuns :
    StepStartsAt (placed 0x6005) (placed 0x6005) ∧ fetch (placed 0x6005) = .ok 0x6005 ∧
      decode 0x6005 = .ok (.ldImm 0 5) := ⟨starts _ (by decide) rfl, by decide, by decide⟩

/-- A step that takes a tick event. -/
theorem witness_StepStarts_tick :
    StepStartsAt { placed 0x6005 with inputs := [.tick, .cmdStop] } { placed 0x6005 with inputs := [.cmdStop] } :=
  ⟨by decide, .inr ⟨rfl, _, rfl, rfl⟩⟩

theorem witness_FetchFault :
    StepStartsAt ((placed 0).setPc 0xFFF) ((placed 0).setPc 0xFFF) ∧
      fetch ((placed 0).setPc 0xFFF) = .error (.memOutOfRange 0x1000 .fetch) :=
  ⟨starts _ (by decide) rfl, by decide⟩

theorem witness_EndOfStep_inside :
    StepStartsAt (placed 0x00E0) (placed 0x00E0) ∧ fetch (placed 0x00E0) = .ok 0x00E0 ∧ decode 0x00E0 = .ok .cls ∧
      ∃ t, exec .cls (placed 0x00E0) = .next t ∧ t.fault = none ∧ t.tickStep + 1 < t.cfg.stepsPerTick :=
  ⟨starts _ (by decide) rfl, by decide, by decide, _, rfl, rfl, by decide⟩

/-- The last step of a tick, inside which the inputs are not read. -/
def lastStep (w : Nat) : State := { placed w with tickStep := 9, inputs := [.cmdStop] }

theorem witness_EndOfStep_last :
    StepStartsAt (lastStep 0x1200) (lastStep 0x1200) ∧ fetch (lastStep 0x1200) = .ok 0x1200 ∧
      decode 0x1200 = .ok (.jp 0x200) ∧
        ∃ t, exec (.jp 0x200) (lastStep 0x1200) = .next t ∧ t.fault = none ∧ t.cfg.stepsPerTick ≤ t.tickStep + 1 :=
  ⟨⟨by decide, .inl ⟨.inl (by decide), rfl⟩⟩, by decide, by decide, _, rfl, rfl, by decide⟩

theorem witness_Memory : Memory.wf s0.cfg s0.mem = true ∧ 0xFFF < 0x1000 ∧ 0x1000 ≤ 0x1000 := by decide

theorem witness_MemoriesEqual :
    Memory.wf cfg0 [(0x200, 1), (0xFFF, 2)] = true ∧
      ∀ a, Memory.byteAt cfg0 [(0x200, 1), (0xFFF, 2)] a = Memory.byteAt cfg0 [(0x200, 1), (0xFFF, 2)] a :=
  ⟨by decide, fun _ => rfl⟩

theorem witness_StoredBytes :
    Memory.wf (s0.setI 0x202).cfg (s0.setI 0x202).mem = true ∧ (s0.setI 0x202).dataBase + (1 : Reg).val < 0x1000 ∧
      (1 : Reg).val = (0 : Reg).val + 1 ∧ (1 : Reg) ≤ 1 ∧
        (s0.setI 0x202).dataBase + (0 : Reg).val = ((s0.setI 0x202).pc.toNat + 2) % 0x1000 := by decide

/-- A carry and none, a NOT-borrow and none, each at its boundary, and a shifted-out bit of each kind. -/
theorem witness_Flags_clauses :
    ((withV s0 [(0, 0xFF), (1, 1)]).readV 0).toNat + ((withV s0 [(0, 0xFF), (1, 1)]).readV 1).toNat > 0xFF ∧
      ¬ ((withV s0 [(0, 0x7F), (1, 0x80)]).readV 0).toNat + ((withV s0 [(0, 0x7F), (1, 0x80)]).readV 1).toNat > 0xFF ∧
      (s0.readV 0).toNat ≥ (s0.readV 1).toNat ∧
      ¬ ((withV s0 [(1, 1)]).readV 0).toNat ≥ ((withV s0 [(1, 1)]).readV 1).toNat ∧
      (0x01 : Byte).getLsbD 0 = true ∧ ¬ (0x01 : Byte).getLsbD 7 = true ∧ (0 : Reg) ≠ regF := by decide

/-- The two cases of each comparison skip. -/
theorem witness_Skips_clauses :
    s0.readV 0 = 0 ∧ s0.readV 0 ≠ 1 ∧ s0.readV 0 = s0.readV 1 ∧
      (withV s0 [(0, 1)]).readV 0 ≠ (withV s0 [(0, 1)]).readV 1 := by decide

theorem witness_OnlyFlagInstructions :
    (∃ t, exec .cls s0 = .next t ∧ instrWritesFlag .cls = false ∧ regF ∉ instrDests .cls) ∧
      ∃ t, exec (.add 0 1) s0 = .next t ∧ instrWritesFlag (.add 0 1) = true ∧ s0.fault = none ∧ t.fault = none :=
  ⟨⟨_, rfl, rfl, by decide⟩, _, rfl, rfl, rfl, rfl⟩

theorem witness_ReturnResumes :
    ∃ t u : State, exec (.call 0x300) { s0 with sp := 15 } = .next t ∧ u.sp = t.sp ∧ u.stackAt 15 = t.stackAt 15 :=
  ⟨_, _, rfl, rfl, rfl⟩

theorem witness_SixteenCalls :
    (List.replicate 16 (0x300 : Word)).length ≤ 16 ∧ 0 < 16 ∧ 16 ≤ (List.replicate 16 (0x300 : Word)).length := by
  decide

theorem witness_OnlyCallAndReturn :
    (∃ t, exec (.call 0) s0 = .next t) ∧ (∃ t, exec .ret s0 = .next t) ∧
      ∃ t, exec .cls s0 = .next t ∧ (∀ nnn, Instr.cls ≠ .call nnn) ∧ Instr.cls ≠ .ret :=
  ⟨⟨_, rfl⟩, ⟨_, rfl⟩, _, rfl, by simp, by simp⟩

theorem witness_PcAdvances :
    s0.fault = none ∧ (∃ t, exec (.ldVxK 0) s0 = .next t ∧ t.fault = none) ∧
      ∃ t, exec (.seImm 0 0) s0 = .next t ∧ t.fault = none := by
  exact ⟨rfl, exists_of_answers (p := fun t => t.fault.isNone) (by decide) |>.imp fun _ h => ⟨h.1, by simpa using h.2⟩,
    _, rfl, rfl⟩

theorem witness_DecimalDigits :
    Memory.wf s0.cfg s0.mem = true ∧ (s0.setI 0xFFD).i.toNat < 0x1000 ∧ (s0.setI 0xFFD).dataBase + 2 < 0x1000 ∧
      (s0.setI 0xFFE).i.toNat < 0x1000 ∧ 0x1000 ≤ (s0.setI 0xFFE).dataBase + 2 := by decide

/-- The last block that fits and the first that does not, for FX55 and FX65. -/
theorem witness_Blocks :
    Memory.wf s0.cfg s0.mem = true ∧ (s0.setI 0xFF0).i.toNat < 0x1000 ∧
      (s0.setI 0xFF0).dataBase + (15 : Reg).val < 0x1000 ∧ (s0.setI 0xFF1).i.toNat < 0x1000 ∧
        0x1000 ≤ (s0.setI 0xFF1).dataBase + (15 : Reg).val := by decide

/-- One sprite row at 0xFFF, its two set bits in the last two columns of the top row. -/
def sprite : State := withV (withMem (s0.setI 0xFFF) 0xFFF [0xC0]) [(0, 62)]

theorem sprite_onScreen (px py : Nat)
    (h : spriteCovers sprite sprite.dataBase (spriteColumn sprite 0) (spriteRow sprite 1) 1 px py) :
    px < 64 ∧ py < 32 := by
  obtain ⟨r, c, hr, hc, rfl, rfl, hb⟩ := h
  obtain rfl : r = 0 := by omega
  have : ∀ c, c < 8 → (sprite.byteAt (sprite.dataBase + 0)).getLsbD (7 - c) = true → 62 + c < 64 := by decide
  exact ⟨this c hc hb, by decide⟩

theorem witness_DrawToggles :
    sprite.dataBase + 1 ≤ 0x1000 ∧ (0 : Reg) ≠ regF ∧ (1 : Reg) ≠ regF ∧
      (∀ px py, spriteCovers sprite sprite.dataBase (spriteColumn sprite 0) (spriteRow sprite 1) 1 px py →
        px < 64 ∧ py < 32) ∧
      (∃ px py, spriteCovers sprite sprite.dataBase (spriteColumn sprite 0) (spriteRow sprite 1) 1 px py ∧
        sprite.screen.pixel px py = false) :=
  ⟨by decide, by decide, by decide, sprite_onScreen,
    63, 0, ⟨0, 1, by decide, by decide, by decide, by decide, by decide⟩, by decide⟩

theorem witness_DrawFaults_memory : sprite.i.toNat < 0x1000 ∧ 0x1000 < sprite.dataBase + 2 := by decide

/-- The same row one column further right: its second set bit is the first one outside the screen. -/
def spriteOut : State := withV sprite [(0, 63)]

theorem witness_DrawFaults_screen :
    spriteOut.i.toNat < 0x1000 ∧ spriteOut.dataBase + 1 ≤ 0x1000 ∧
      (spriteOut.byteAt (spriteOut.dataBase + 0)).getLsbD (7 - 1) = true ∧ 64 ≤ spriteColumn spriteOut 0 + 1 ∧
      ∀ r' c', r' < 0 ∨ (r' = 0 ∧ c' < 1) → c' < 8 →
        (spriteOut.byteAt (spriteOut.dataBase + r')).getLsbD (7 - c') = true →
          spriteColumn spriteOut 0 + c' < 64 ∧ spriteRow spriteOut 1 + r' < 32 := by
  refine ⟨by decide, by decide, by decide, by decide, ?_⟩
  rintro r' c' (h | ⟨rfl, h⟩) - -
  · omega
  · obtain rfl : c' = 0 := by omega
    decide

/-- The last key and the first value that names none. -/
theorem witness_KeySkips :
    ((withV s0 [(5, 15)]).readV 5).toNat < 16 ∧ 16 ≤ ((withV s0 [(5, 16)]).readV 5).toNat := by decide

theorem witness_WaitForKey :
    (∀ k : Reg, s0.keys[k.val] = false) ∧ ∃ k : Reg, (withKeys s0 [15]).keys[k.val] = true :=
  ⟨by decide, 15, by decide⟩

theorem witness_HostInputs :
    (lastStep 0x1200).active = true ∧ (lastStep 0x1200).tickStep ≠ 0 ∧ ∃ t, step (lastStep 0x1200) = .next t :=
  ⟨by decide, by decide,
    (exists_of_answers (o := step (lastStep 0x1200)) (p := fun _ => true) (by decide)).imp fun _ h => h.1⟩

/-- An instruction that completes and one that faults. -/
theorem witness_InstructionsWrite :
    Memory.wf s0.cfg s0.mem = true ∧ s0.fault = none ∧ (∃ t, exec .cls s0 = .next t ∧ t.fault = none) ∧
      ∃ t, exec (.ldBVx 0) (s0.setI 0xFFE) = .next t ∧ t.fault.isSome = true :=
  ⟨by decide, rfl, ⟨_, rfl, rfl⟩, exists_of_answers (p := fun t => t.fault.isSome) (by decide)⟩

theorem witness_FaultsArePrecise :
    (placed 0xFFFF).fault = none ∧ ∃ t, step (placed 0xFFFF) = .next t ∧ t.fault.isSome = true :=
  ⟨rfl, exists_of_answers (p := fun t => t.fault.isSome) (by decide)⟩

/-- A faulted block that the host has tried to start again. -/
def faulted : State := { takeFault (.unknownOpcode 0) s0 with run := .running }

theorem witness_FaultedTakesNoStep :
    (∃ r, faulted.fault = some r) ∧ faulted.inputs = [] ∧ (∀ rest, faulted.inputs ≠ .cmdReset :: rest) ∧
      step faulted = .next faulted := ⟨⟨_, rfl⟩, rfl, by simp [faulted, takeFault, s0, State.reset], rfl⟩

theorem witness_FaultCauses :
    (∃ t, exec (.drw 0 1 2) sprite = .next t ∧ t.fault = some ⟨.memOutOfRange 0x1000 .read, 0x200⟩) ∧
      (∃ t, exec (.skp 0) sprite = .next t ∧ t.fault = some ⟨.keyIndexOutOfRange 62, 0x200⟩) ∧
        ∃ t, exec (.drw 0 1 1) spriteOut = .next t ∧ t.fault = some ⟨.drawOutOfRange 64 0, 0x200⟩ := by
  refine ⟨?_, ?_, ?_⟩
  · exact (exists_of_answers (p := fun t => decide (t.fault = some ⟨.memOutOfRange 0x1000 .read, 0x200⟩))
      (by decide)).imp fun _ h => ⟨h.1, of_decide_eq_true h.2⟩
  · exact (exists_of_answers (p := fun t => decide (t.fault = some ⟨.keyIndexOutOfRange 62, 0x200⟩))
      (by decide)).imp fun _ h => ⟨h.1, of_decide_eq_true h.2⟩
  · exact (exists_of_answers (p := fun t => decide (t.fault = some ⟨.drawOutOfRange 64 0, 0x200⟩))
      (by decide)).imp fun _ h => ⟨h.1, of_decide_eq_true h.2⟩

/-- A self-jump at 0x200 with two steps in a tick. -/
def selfJump : State := State.withFetchWord { s0 with cfg := { cfg0 with stepsPerTick := 2 } } 16 0x1200

theorem selfJump_inv : selfJump.Inv where
  config := by decide
  indexRange := by decide
  pcRange := by decide
  stackRange := by decide
  memory := by decide
  redrawClear := rfl
  tickRange := by decide
  insideTick := fun h => absurd rfl h
  stopRecorded := fun h => by cases h
  slotsInOrder := rfl
  slotsLegal := fun e he => by cases he

theorem witness_StepKeepsLegal : selfJump.Inv ∧ ∃ t, step selfJump = .next t ∧ t.fault = none :=
  ⟨selfJump_inv, (exists_of_answers (p := fun t => t.fault.isNone) (by decide)).imp
    fun _ h => ⟨h.1, by simpa using h.2⟩⟩

theorem witness_EveryStep : StepStartsAt selfJump selfJump := starts _ (by decide) rfl

theorem witness_ATick :
    selfJump.active = true ∧ selfJump.inputs = [] ∧ selfJump.tickStep = 0 ∧ selfJump.cfg.stepsPerTick = 2 ∧
      answers (Sys2Proof.core.run 2 selfJump) (fun t => t.fault.isNone && t.cycleCounter == 1) = true := by decide

theorem witness_SelfJump : selfJump.active = true ∧ selfJump.inputs = [] ∧ EndedInSelfJump selfJump :=
  ⟨by decide, rfl, rfl, by decide, by decide⟩

/-- A faulted block with the reset command next. -/
def faultedReset : State := { faulted with run := .stopped, inputs := [.cmdReset] }

theorem witness_ResetCommand : faultedReset.run = .stopped ∧ faultedReset.inputs = .cmdReset :: [] := ⟨rfl, rfl⟩

/-- The longest program that fits and the shortest that does not (RS3, RS4). -/
theorem witness_LoadRom :
    Memory.wf s0.cfg s0.mem = true ∧ s0.run = .stopped ∧
      (List.replicate 3584 (0xFF : Byte)).length + 0x200 ≤ 0x1000 ∧
        0x1000 < (List.replicate 3585 (0xFF : Byte)).length + 0x200 :=
  ⟨by decide, rfl, by rw [List.length_replicate], by rw [List.length_replicate]; decide⟩

/-- RS4: the refused load is reported and changes nothing else. -/
theorem test_loadRom_tooLarge : loadRom (List.replicate 3585 0xFF) s0 = s0.emit (.romTooLarge 3585) := by
  rw [loadRom_tooLarge _ (by rw [List.length_replicate]; decide), List.length_replicate]

/-- The reset state with the host's order at boot as its inputs. -/
def booting : State :=
  { State.reset with inputs := [.cmdReset, .setQuirks true false, .cmdLoadRom [0x12, 0x00], .cmdRun] }

theorem witness_Boot :
    booting.run = .stopped ∧ ([0x12, 0x00] : List Byte).length + 0x200 ≤ 0x1000 ∧
      booting.inputs = [.cmdReset, .setQuirks true false, .cmdLoadRom [0x12, 0x00], .cmdRun] :=
  ⟨rfl, by decide, rfl⟩

/-- A save between two ticks of a running block, and a stopped block that holds the snapshot. -/
theorem witness_Restore :
    (placed 0x1200).tickStep = 0 ∧
      ∃ t, step { placed 0x1200 with inputs := [.cmdSave 3] } = .next t ∧
        ∃ u : State, u.slots = t.slots ∧ u.run = .stopped ∧ u.inputs = [.cmdRestore 3] :=
  ⟨rfl, _, rfl, { s0 with slots := _, inputs := _ }, rfl, rfl, rfl⟩

theorem witness_OutOfTurn :
    ({ placed 0x1200 with inputs := [.cmdRun] } : State).run = .running ∧
      ({ placed 0x1200 with inputs := [.cmdRun] } : State).tickStep = 0 ∧
        step { placed 0x1200 with inputs := [.cmdRun] } = .refused (.commandWhileRunning .cmdRun) := ⟨rfl, rfl, rfl⟩

/-- Each clause's input in a stopped block between two ticks. -/
theorem witness_HostPorts :
    s0.tickStep = 0 ∧ s0.run = .stopped ∧ ∀ input, ({ s0 with inputs := [input] } : State).inputs = [input] :=
  ⟨rfl, rfl, fun _ => rfl⟩

/-- A Running block with a `stop()` next. -/
def stopping : State := { selfJump with inputs := [.cmdStop] }

theorem witness_OnlyAnIssuedStop_stop :
    stopping.run = .running ∧ stopping.fault = none ∧ stopping.tickStep = 0 ∧ stopping.inputs = .cmdStop :: [] :=
  ⟨rfl, rfl, rfl, rfl⟩

theorem witness_OnlyAnIssuedStop_ended : ∃ t, step stopping = .next t ∧ EndedByStop t :=
  ⟨_, rfl, rfl, rfl, rfl, rfl⟩

/-- An active block that waits in FX0A. -/
def waiting : State := placed 0xF30A

theorem witness_OnlyAnIssuedStop_waiting :
    waiting.active = true ∧ fetch waiting = .ok (encode (.ldVxK 3)) := by decide

/-- A `stop()` on the block that was never started changes nothing and ends no run (R335, R403). -/
theorem test_stop_unstarted :
    answers (step { s0 with inputs := [.cmdStop] }) (fun t => !t.stopIssued && decide (t = s0)) = true := by decide

end Sys2Proof.Tests
end

/-! PROOFS of the statements of 10_state.md: that decoded instructions are well-formed, the frame of each operation,
what an instruction can complete in (`exec_cases`), and the invariant over steps and host inputs. -/

namespace Sys2Proof

/-! ### What the decoder gives is well-formed -/

theorem addressFits_fieldNNN (op : Word) : addressFits (fieldNNN op) = true := by
  simp only [addressFits, fieldNNN, bits_eq, BitVec.toNat_ofNat, decide_eq_true_eq]; omega

theorem countFits_fieldN (op : Word) : countFits (fieldN op) = true := by
  exact decide_eq_true (by rw [fieldN, bits_eq]; omega)

theorem wellFormed_of_decodeFixed {op : Word} {i : Instr} (h : decodeFixed op = .ok i) : i.wellFormed = true := by
  unfold decodeFixed at h
  split at h <;> cases h <;> rfl

theorem wellFormed_of_decodeAlu {op : Word} {i : Instr} (h : decodeAlu op = .ok i) : i.wellFormed = true := by
  unfold decodeAlu at h
  split at h <;> cases h <;> rfl

theorem wellFormed_of_decodeKey {op : Word} {i : Instr} (h : decodeKey op = .ok i) : i.wellFormed = true := by
  unfold decodeKey at h
  split at h <;> cases h <;> rfl

theorem wellFormed_of_decodeMisc {op : Word} {i : Instr} (h : decodeMisc op = .ok i) : i.wellFormed = true := by
  unfold decodeMisc at h
  split at h <;> cases h <;> rfl

/-- The fields of a word fit the operands they become (R81, R89). -/
theorem wellFormed_of_decode {op : Word} {i : Instr} (h : decode op = .ok i) : i.wellFormed = true := by
  unfold decode at h
  split at h
  case h_1 => exact wellFormed_of_decodeFixed h
  case h_9 => exact wellFormed_of_decodeAlu h
  case h_15 => exact wellFormed_of_decodeKey h
  case h_16 => exact wellFormed_of_decodeMisc h
  case h_14 => cases h; exact countFits_fieldN op
  case h_2 | h_3 | h_11 | h_12 => cases h; exact addressFits_fieldNNN op
  all_goals cases h; rfl

end Sys2Proof

namespace Sys2Proof.Machine

/-! ### Frames: how they compose, and the frame of each operation -/

section Frames
variable {s t u : State}

theorem Keeps.trans {p : Part} (h : Keeps s t p) (h' : Keeps t u p) : Keeps s u p := by
  cases p <;> simp_all [Keeps]

theorem KeepsAllBut.trans {l l' : List Part} (h : KeepsAllBut l s t) (h' : KeepsAllBut l' t u) :
    KeepsAllBut (l ++ l') s u := by
  intro p hp
  rw [List.mem_append, not_or] at hp
  exact (h p hp.1).trans (h' p hp.2)

/-- A frame may name more parts as written. -/
theorem KeepsAllBut.mono {l l' : List Part} (h : KeepsAllBut l s t) (hl : l ⊆ l') : KeepsAllBut l' s t :=
  fun p hp => h p fun hm => hp (hl hm)

variable (s)

theorem keepsAllBut_refl (l : List Part) : KeepsAllBut l s s := by
  intro p _; cases p <;> simp [Keeps]

theorem keepsAllBut_setV (x : Reg) (b : Byte) : KeepsAllBut [.regs] s (s.setV x b) := by
  intro p hp; cases p <;> simp [Keeps] at hp ⊢

theorem keepsAllBut_setResultFlag (x : Reg) (r : Byte) (b : Bool) :
    KeepsAllBut [.regs] s (s.setResultFlag x r b) := by
  intro p hp; cases p <;> simp [Keeps] at hp ⊢

theorem keepsAllBut_setFlag (b : Bool) : KeepsAllBut [.regs] s (s.setFlag b) := keepsAllBut_setV s regF _

theorem keepsAllBut_setLowV (bs : List Byte) : KeepsAllBut [.regs] s (s.setLowV bs) := by
  intro p hp; cases p <;> simp [Keeps] at hp ⊢

theorem keepsAllBut_setI (a : Word) : KeepsAllBut [.index] s (s.setI a) := by
  intro p hp; cases p <;> simp [Keeps] at hp ⊢

theorem keepsAllBut_bumpI (x : Reg) : KeepsAllBut [.index] s (s.bumpI x) := by
  intro p hp; cases p <;> simp [Keeps] at hp ⊢

theorem keepsAllBut_setPc (a : Word) : KeepsAllBut [.pc] s (s.setPc a) := by
  intro p hp; cases p <;> simp [Keeps] at hp ⊢

theorem keepsAllBut_advancePc : KeepsAllBut [.pc] s s.advancePc := keepsAllBut_setPc s _

theorem keepsAllBut_skipIf (b : Bool) : KeepsAllBut [.pc] s (s.skipIf b) := by
  intro p hp; cases p <;> simp [Keeps] at hp ⊢

theorem keepsAllBut_setDt (b : Byte) : KeepsAllBut [.dt] s (s.setDt b) := by
  intro p hp; cases p <;> simp [Keeps] at hp ⊢

theorem keepsAllBut_setSt (b : Byte) : KeepsAllBut [.st] s (s.setSt b) := by
  intro p hp; cases p <;> simp [Keeps] at hp ⊢

theorem keepsAllBut_push (a : Word) : KeepsAllBut [.stack, .sp] s (s.push a) := by
  intro p hp; cases p <;> simp [Keeps] at hp ⊢

theorem keepsAllBut_pop : KeepsAllBut [.sp] s s.pop := by
  intro p hp; cases p <;> simp [Keeps] at hp ⊢

theorem keepsAllBut_showScreen (scr : Screen) : KeepsAllBut [.screen, .redraw] s (s.showScreen scr) := by
  intro p hp; cases p <;> simp [Keeps] at hp ⊢

theorem keepsAllBut_setMem (m : Memory) : KeepsAllBut [.mem] s (s.setMem m) := by
  intro p hp; cases p <;> simp [Keeps] at hp ⊢

theorem keepsAllBut_countDraw : KeepsAllBut [.draws] s s.countDraw := by
  intro p hp; cases p <;> simp [Keeps] at hp ⊢

/-- R301: a fault writes its record, the sequencer state, the position in the tick and the report. -/
theorem keepsAllBut_takeFault (f : Fault) : KeepsAllBut [.fault, .run, .tickStep, .outputs] s (takeFault f s) := by
  intro p hp; cases p <;> simp [Keeps] at hp ⊢

end Frames

/-! ### The states an instruction can complete in -/

/-- The instruction `i` started in `s` has completed in the third argument: one constructor for each way of writing
the state. A constructor shared by several instructions says which parts, registers and flag they write; the value
written is left open where no statement about legal states or frames asks for it. -/
inductive Completed (s : State) : Instr → State → Prop where
  | clear : Completed s .cls (s.showScreen Screen.blank).advancePc
  | sprite (x y : Reg) (n : Nat) (scr : Screen) (b : Bool) :
      Completed s (.drw x y n) ((s.showScreen scr).setFlag b).advancePc
  | ret (a : Nat) : Completed s .ret (s.pop.setPc (mask12 a))
  | call (nnn : Word) : Completed s (.call nnn) ((s.push s.pc).setPc nnn)
  | jump (nnn : Word) : Completed s (.jp nnn) (s.setPc nnn)
  | jumpIndexed (nnn : Word) (a : Nat) : Completed s (.jpV0 nnn) (s.setPc (mask12 a))
  | skip {i : Instr} (b : Bool) (hf : instrWritesFlag i = false) (hw : instrWrites i = []) :
      Completed s i (s.skipIf b)
  | register {i : Instr} (x : Reg) (b : Byte) (hf : instrWritesFlag i = false) (hd : instrDests i = [x])
      (hw : instrWrites i = [.regs]) : Completed s i (s.setV x b).advancePc
  | drawn {i : Instr} (x : Reg) (b : Byte) (hf : instrWritesFlag i = false) (hd : instrDests i = [x])
      (hw : instrWrites i = [.regs, .draws]) : Completed s i (s.countDraw.setV x b).advancePc
  | waiting (x : Reg) : Completed s (.ldVxK x) s
  | resultFlag {i : Instr} (x : Reg) (r : Byte) (b : Bool) (hf : instrWritesFlag i = true) (hd : instrDests i = [x])
      (hw : instrWrites i = [.regs]) : Completed s i (s.setResultFlag x r b).advancePc
  | index {i : Instr} (a : Word) (hf : instrWritesFlag i = false) (hw : instrWrites i = [.index])
      (ha : i.wellFormed = true → a.toNat < 0x1000) : Completed s i (s.setI a).advancePc
  | delay (x : Reg) (b : Byte) : Completed s (.ldDtVx x) (s.setDt b).advancePc
  | sound (x : Reg) (b : Byte) : Completed s (.ldStVx x) (s.setSt b).advancePc
  | digits (x : Reg) (h : s.dataBase + 3 ≤ memSize) : Completed s (.ldBVx x)
      (s.setMem (Memory.putAll s.cfg s.mem s.dataBase (decimalDigits (s.readV x)))).advancePc
  | stored (x : Reg) (h : s.dataBase + x.val + 1 ≤ memSize) : Completed s (.ldMemVx x)
      ((s.setMem (Memory.putAll s.cfg s.mem s.dataBase (s.lowV x))).bumpI x).advancePc
  | loaded (x : Reg) : Completed s (.ldVxMem x) ((s.setLowV (loadedBytes s (x.val + 1))).bumpI x).advancePc

theorem commitOrFault_cases {s t : State} {r : Except Fault State} (h : commitOrFault s r = .next t) :
    (∃ f, t = takeFault f s) ∨ r = .ok t := by
  cases r with
  | ok u => cases h; exact .inr rfl
  | error f => cases h; exact .inl ⟨f, rfl⟩

theorem glyphAddress_lt (b : Byte) : (glyphAddress b).toNat < 0x1000 := by
  have := b.isLt
  have := Nat.mod_le (b.toNat * 5) (2 ^ 16)
  rw [glyphAddress, BitVec.toNat_ofNat]; omega

theorem map_ok_cases {α β ε : Type} {f : α → β} {r : Except ε α} {b : β} (h : r.map f = .ok b) :
    ∃ a, r = .ok a ∧ f a = b := by
  cases r with
  | ok a => cases h; exact ⟨a, rfl, rfl⟩
  | error e => cases h

theorem drawSprite_cases {s t : State} {x y : Reg} {rows : List Byte} (h : drawSprite x y s rows = .ok t) :
    ∃ scr b, t = ((s.showScreen scr).setFlag b).advancePc := by
  obtain ⟨r, -, rfl⟩ := map_ok_cases h
  exact ⟨r.1, r.2, rfl⟩

theorem execDrw_cases {s t : State} {x y : Reg} {n : Nat} (h : execDrw x y n s = .next t) :
    (∃ f, t = takeFault f s) ∨ Completed s (.drw x y n) t := by
  by_cases hn : n = 0 ∨ s.dataBase + n ≤ memSize
  · rw [execDrw_fits s x y n hn] at h
    refine (commitOrFault_cases h).imp_right fun ht => ?_
    obtain ⟨scr, b, rfl⟩ := drawSprite_cases ht
    exact .sprite x y n scr b
  · rw [execDrw_out s x y n (by omega) (by omega)] at h
    cases h; exact .inl ⟨_, rfl⟩

/-- A key skip ends in one of the two skips or takes the fault of the key index. -/
theorem keySkip_cases {s t : State} {b : Byte} {c : Bool → Bool}
    (h : commitOrFault s ((keyAt s b).map (fun pressed => s.skipIf (c pressed))) = .next t) :
    (∃ f, t = takeFault f s) ∨ ∃ d, t = s.skipIf d :=
  (commitOrFault_cases h).imp_right fun ht =>
    let ⟨p, _, hp⟩ := map_ok_cases ht
    ⟨c p, hp.symm⟩

/-- What an instruction can do: take a fault from the state it starts in, or complete. -/
theorem exec_cases {s t : State} {i : Instr} (h : exec i s = .next t) :
    (∃ f, t = takeFault f s) ∨ Completed s i t := by
  cases i with
  | drw x y n => exact execDrw_cases h
  | ldBVx x =>
    rcases Nat.lt_or_ge memSize (s.dataBase + 3) with hn | hn
    · cases (execLdBVx_out s x hn).symm.trans h; exact .inl ⟨_, rfl⟩
    · cases (execLdBVx_fits s x hn).symm.trans h; exact .inr (.digits x hn)
  | ldMemVx x =>
    rcases Nat.lt_or_ge memSize (s.dataBase + x.val + 1) with hn | hn
    · cases (execLdMemVx_out s x hn).symm.trans h; exact .inl ⟨_, rfl⟩
    · cases (execLdMemVx_fits s x hn).symm.trans h; exact .inr (.stored x hn)
  | ldVxMem x =>
    rcases Nat.lt_or_ge memSize (s.dataBase + x.val + 1) with hn | hn
    · cases (execLdVxMem_out s x hn).symm.trans h; exact .inl ⟨_, rfl⟩
    · cases (execLdVxMem_fits s x hn).symm.trans h; exact .inr (.loaded x)
  | skp x | sknp x =>
    refine (keySkip_cases h).imp_right ?_
    rintro ⟨d, rfl⟩
    exact .skip d rfl rfl
  | ldVxK x =>
    simp only [exec, execLdVxK] at h
    cases hk : pickKey s.draws (pressedKeys s) with
    | none => rw [hk] at h; cases h; exact .inr (.waiting x)
    | some k => rw [hk] at h; cases h; exact .inr (.drawn x _ rfl rfl rfl)
  | seImm x | sneImm x | seReg x | sneReg x => cases h; exact .inr (.skip _ rfl rfl)
  | ldImm x | addImm x | mov x | or x | and x | xor x | ldVxDt x => cases h; exact .inr (.register x _ rfl rfl rfl)
  | add x | sub x | shr x | subn x | shl x => cases h; exact .inr (.resultFlag x _ _ rfl rfl rfl)
  | ldI nnn => cases h; exact .inr (.index nnn rfl rfl of_decide_eq_true)
  | addIVx x => cases h; exact .inr (.index _ rfl rfl fun _ => mask12_lt _)
  | ldFVx x => cases h; exact .inr (.index _ rfl rfl fun _ => glyphAddress_lt _)
  | cls => cases h; exact .inr .clear
  | ret => cases h; exact .inr (.ret _)
  | jp nnn => cases h; exact .inr (.jump nnn)
  | call nnn => cases h; exact .inr (.call nnn)
  | jpV0 nnn => cases h; exact .inr (.jumpIndexed nnn _)
  | rnd x nn => cases h; exact .inr (.drawn x _ rfl rfl rfl)
  | ldDtVx x => cases h; exact .inr (.delay x _)
  | ldStVx x => cases h; exact .inr (.sound x _)

/-! ### The frame of an instruction that completes -/

theorem flagByte_eq (b : Bool) : flagByte b = 0 ∨ flagByte b = 1 := by
  cases b
  · exact .inl rfl
  · exact .inr rfl

section Completed
variable {s t : State} {i : Instr} (h : Completed s i t)
include h

/-- Of the parts of the state only PC and those of its kind (R20 to R32). -/
theorem Completed.keepsParts : KeepsAllBut (.pc :: instrWrites i) s t := by
  cases h with
  | clear => exact ((keepsAllBut_showScreen s _).trans (keepsAllBut_advancePc _)).mono (by decide)
  | sprite x y n scr b =>
    exact (((keepsAllBut_showScreen s scr).trans (keepsAllBut_setFlag _ b)).trans (keepsAllBut_advancePc _)).mono
      (by simp [instrWrites])
  | ret a => exact ((keepsAllBut_pop s).trans (keepsAllBut_setPc _ _)).mono (by decide)
  | call nnn => exact ((keepsAllBut_push s _).trans (keepsAllBut_setPc _ nnn)).mono (by simp [instrWrites])
  | jump nnn => exact keepsAllBut_setPc s nnn
  | jumpIndexed nnn a => exact keepsAllBut_setPc s _
  | skip b hf hw => rw [hw]; exact keepsAllBut_skipIf s b
  | register x b hf hd hw =>
    rw [hw]; exact ((keepsAllBut_setV s x b).trans (keepsAllBut_advancePc _)).mono (by decide)
  | drawn x b hf hd hw =>
    rw [hw]
    exact (((keepsAllBut_countDraw s).trans (keepsAllBut_setV _ x b)).trans (keepsAllBut_advancePc _)).mono (by decide)
  | waiting x => exact keepsAllBut_refl s _
  | resultFlag x r b hf hd hw =>
    rw [hw]; exact ((keepsAllBut_setResultFlag s x r b).trans (keepsAllBut_advancePc _)).mono (by decide)
  | index a hf hw ha =>
    rw [hw]; exact ((keepsAllBut_setI s a).trans (keepsAllBut_advancePc _)).mono (by decide)
  | delay x b => exact ((keepsAllBut_setDt s b).trans (keepsAllBut_advancePc _)).mono (by simp [instrWrites])
  | sound x b => exact ((keepsAllBut_setSt s b).trans (keepsAllBut_advancePc _)).mono (by simp [instrWrites])
  | digits x => exact ((keepsAllBut_setMem s _).trans (keepsAllBut_advancePc _)).mono (by simp [instrWrites])
  | stored x =>
    exact (((keepsAllBut_setMem s _).trans (keepsAllBut_bumpI _ x)).trans (keepsAllBut_advancePc _)).mono
      (by simp [instrWrites])
  | loaded x =>
    exact (((keepsAllBut_setLowV s _).trans (keepsAllBut_bumpI _ x)).trans (keepsAllBut_advancePc _)).mono
      (by simp [instrWrites])

/-- Of the registers only its destinations and its flag (R20, R21). -/
theorem Completed.keepsRegs :
    KeepsRegsBut (if instrWritesFlag i then regF :: instrDests i else instrDests i) s t := by
  intro r hr
  cases h with
  | register x b hf hd =>
    simp only [hf, hd, Bool.false_eq_true, ↓reduceIte, List.mem_singleton] at hr
    simp [Ne.symm hr]
  | drawn x b hf hd =>
    simp only [hf, hd, Bool.false_eq_true, ↓reduceIte, List.mem_singleton] at hr
    simp [Ne.symm hr]
  | resultFlag x res b hf hd =>
    simp only [hf, hd, ↓reduceIte, List.mem_cons, List.not_mem_nil, or_false, not_or] at hr
    simp [Ne.symm hr.1, Ne.symm hr.2]
  | sprite x y n scr b =>
    have hF : regF ≠ r := fun e => hr (e ▸ List.mem_cons_self ..)
    simp [hF]
  | loaded x =>
    have hx : x < r := by simpa [instrWritesFlag, instrDests] using hr
    rw [State.advancePc_readV, State.bumpI_readV, State.readV_setLowV, getD_loadedBytes_out s (Nat.succ_le_of_lt hx)]
  | clear | ret | call | jump | jumpIndexed | skip | waiting | index | delay | sound | digits | stored => simp

/-- Of the bytes of memory only those it stores from I on (R67). -/
theorem Completed.keepsBytes (hm : Memory.wf s.cfg s.mem = true) :
    KeepsBytesOutside s.dataBase (instrStoredBytes i) s t := by
  intro a ha
  cases h with
  | digits x hfit =>
    rw [State.advancePc_byteAt, State.byteAt_putAll s _ _ _ hfit hm, if_neg]
    simp only [instrStoredBytes, decimalDigits_length] at ha ⊢; omega
  | stored x hfit =>
    rw [State.advancePc_byteAt, State.bumpI_byteAt,
      State.byteAt_putAll s _ _ _ (by rw [State.length_lowV]; exact hfit) hm, if_neg]
    rw [State.length_lowV]
    simp only [instrStoredBytes] at ha; omega
  | clear | ret | call | jump | jumpIndexed | skip | waiting | index | delay | sound | register | drawn | resultFlag
  | sprite | loaded => simp

/-- VF after a flag instruction is a flag: it is written last (R21, R141). -/
theorem Completed.flag (hf : instrWritesFlag i = true) : t.readV regF = 0 ∨ t.readV regF = 1 := by
  cases h with
  | resultFlag x r b => simpa using flagByte_eq b
  | sprite x y n scr b => simpa using flagByte_eq b
  | skip b hf' | register x b hf' | drawn x b hf' | index a hf' => rw [hf] at hf'; cases hf'
  | clear | ret | call | jump | jumpIndexed | waiting | delay | sound | digits | stored | loaded => cases hf

end Completed

/-- An instruction that ends without a fault has completed. -/
theorem completed_of_exec {s t : State} {i : Instr} (h : exec i s = .next t) (ht : t.fault = none) :
    Completed s i t := by
  rcases exec_cases h with ⟨f, rfl⟩ | hc
  · cases ht
  · exact hc

/-- An instruction that ends in a fault has taken it from the state it started in. -/
theorem takeFault_of_exec {s t : State} {i : Instr} (h : exec i s = .next t) (hs : s.fault = none)
    (ht : t.fault ≠ none) : ∃ f, t = takeFault f s := by
  rcases exec_completesOrFaults s i with ⟨u, hu, hun⟩ | ⟨f, hx⟩
  · cases hu.symm.trans h
    exact absurd (hun.fault.trans hs) ht
  · cases hx.symm.trans h
    exact ⟨f, rfl⟩

/-- Only CALL and RET have SP among the parts they write. -/
theorem sp_notMem_instrWrites {i : Instr} (hcall : ∀ nnn, i ≠ .call nnn) (hret : i ≠ .ret) :
    Part.sp ∉ .pc :: instrWrites i := by
  cases i with
  | call nnn => exact absurd rfl (hcall nnn)
  | ret => exact absurd rfl hret
  | _ => simp [instrWrites]

/-! ### Legal data: what an instruction itself has to re-establish of the invariant -/

/-- The fields of R39 that instructions write, legal: I, PC, the stack entries and memory. -/
structure State.DataLegal (s : State) : Prop where
  indexRange : s.i.toNat < 0x1000
  pcRange : s.pc.toNat < 0x1000
  stackRange : ∀ j : Fin 16, (s.stackAt j).toNat < 0x1000
  memory : Memory.wf s.cfg s.mem = true

theorem State.Inv.dataLegal {s : State} (h : s.Inv) : s.DataLegal :=
  ⟨h.indexRange, h.pcRange, h.stackRange, h.memory⟩

theorem State.bumpI_i_lt {s : State} (x : Reg) (h : s.i.toNat < 0x1000) : (s.bumpI x).i.toNat < 0x1000 := by
  rw [State.bumpI_i_toNat]
  split
  · exact h
  · exact Nat.mod_lt _ (by decide)

theorem State.skipIf_pc_lt (s : State) (b : Bool) : (s.skipIf b).pc.toNat < 0x1000 := by
  rw [State.skipIf_pc_toNat]; exact Nat.mod_lt _ (by decide)

namespace Completed
variable {s t : State} {i : Instr} (h : Completed s i t)
include h

theorem index_lt (hi : i.wellFormed = true) (hs : s.i.toNat < 0x1000) : t.i.toNat < 0x1000 := by
  cases h with
  | index a hf hw ha => exact ha hi
  | stored x => exact State.bumpI_i_lt x hs
  | loaded x => exact State.bumpI_i_lt x hs
  | clear | ret | call | jump | jumpIndexed | skip | waiting | delay | sound | register | drawn | resultFlag | sprite
  | digits => simpa using hs

theorem pc_lt (hi : i.wellFormed = true) (hs : s.pc.toNat < 0x1000) : t.pc.toNat < 0x1000 := by
  cases h with
  | call nnn => exact of_decide_eq_true hi
  | jump nnn => exact of_decide_eq_true hi
  | skip b => exact s.skipIf_pc_lt b
  | waiting => exact hs
  | clear | ret | jumpIndexed | delay | sound | register | drawn | resultFlag | sprite | digits | index | stored
  | loaded => exact mask12_lt _

/-- Only CALL writes a stack entry, and what it writes is PC. -/
theorem stack_lt (hpc : s.pc.toNat < 0x1000) (hs : ∀ j, (s.stackAt j).toNat < 0x1000) (j : Fin 16) :
    (t.stackAt j).toNat < 0x1000 := by
  cases h with
  | call nnn =>
    rw [State.setPc_stackAt, State.stackAt_push]
    split
    · exact hpc
    · exact hs j
  | clear | ret | jump | jumpIndexed | skip | waiting | index | delay | sound | register | drawn | resultFlag | sprite
  | digits | stored | loaded => simpa using hs j

theorem memory_wf (hm : Memory.wf s.cfg s.mem = true) : Memory.wf t.cfg t.mem = true := by
  cases h with
  | digits x hfit => exact Memory.wf_putAll hfit hm
  | stored x hfit =>
    simpa using Memory.wf_putAll (bs := s.lowV x) (by rw [State.length_lowV]; exact hfit) hm
  | clear | ret | call | jump | jumpIndexed | skip | waiting | index | delay | sound | register | drawn | resultFlag
  | sprite | loaded => simpa using hm

theorem dataLegal (hi : i.wellFormed = true) (hs : s.DataLegal) : t.DataLegal :=
  ⟨h.index_lt hi hs.indexRange, h.pc_lt hi hs.pcRange, h.stack_lt hs.pcRange hs.stackRange, h.memory_wf hs.memory⟩

end Completed

/-! ### What the end of a step keeps and counts -/

/-- The end of a step leaves what only the host writes. -/
theorem endStep_keeps_hostFields (t : State) :
    (endStep t).keys = t.keys ∧ (endStep t).loadStore = t.loadStore ∧ (endStep t).shift = t.shift ∧
      (endStep t).inputs = t.inputs := by
  rcases Nat.lt_or_ge (t.tickStep + 1) t.cfg.stepsPerTick with h | h
  · rw [endStep_inside h]; exact ⟨rfl, rfl, rfl, rfl⟩
  · rw [endStep_last h]; exact ⟨rfl, rfl, rfl, rfl⟩

/-- The end of a step counts it, and moves one position on in the ticks (R32, R37, R320). -/
theorem endStep_position {t : State} (h : t.tickStep < t.cfg.stepsPerTick) :
    (endStep t).stepCounter = t.stepCounter + 1 ∧ (endStep t).cfg = t.cfg ∧
      (endStep t).cycleCounter * t.cfg.stepsPerTick + (endStep t).tickStep =
        t.cycleCounter * t.cfg.stepsPerTick + t.tickStep + 1 := by
  rcases Nat.lt_or_ge (t.tickStep + 1) t.cfg.stepsPerTick with hin | hlast
  · rw [endStep_inside hin]; exact ⟨rfl, rfl, rfl⟩
  · rw [endStep_last hlast]
    refine ⟨rfl, rfl, ?_⟩
    have : (t.cycleCounter + 1) * t.cfg.stepsPerTick = t.cycleCounter * t.cfg.stepsPerTick + t.cfg.stepsPerTick :=
      Nat.succ_mul ..
    simp only; omega

/-! ### Steps of the instruction stream keep the state legal -/

section Steps
variable {s s0 t : State}

/-- The state a step starts in: only the inputs may differ, and the invariant does not read them. -/
theorem State.Inv.stepStart (hs : s.Inv) (h : StepStartsAt s s0) : s0.Inv ∧ s0.active = true := by
  obtain ⟨ha, ⟨-, rfl⟩ | ⟨-, rest, -, rfl⟩⟩ := h
  · exact ⟨hs, ha⟩
  · exact ⟨{ hs with }, ha⟩

theorem State.Inv.stepsPerTick_pos (hs : s.Inv) : 0 < s.cfg.stepsPerTick :=
  Nat.lt_of_le_of_lt (Nat.zero_le _) hs.tickRange

theorem State.Inv.takeFault (hs : s.Inv) (f : Fault) : (takeFault f s).Inv :=
  { hs with
    tickRange := hs.stepsPerTick_pos
    insideTick := fun h => absurd rfl h
    stopRecorded := fun _ => rfl }

/-- The end of a step, after an instruction that has completed from a legal state of an active block. -/
theorem State.Inv.endStep (hs : s.Inv) (ha : s.active = true) (hu : Untouched s t) (hd : t.DataLegal) :
    (endStep t).Inv := by
  obtain ⟨hrun, hfault⟩ := active_iff.1 ha
  have hact : t.run = .running ∧ t.fault = none := ⟨hu.run.trans hrun, hu.fault.trans hfault⟩
  have hstop : t.stopIssued = true → t.run = .stopped := by
    rw [hu.stopIssued, hu.run]; exact hs.stopRecorded
  have hcfg : t.cfg.wf = true := by rw [hu.cfg]; exact hs.config
  have hpos : 0 < t.cfg.stepsPerTick := by rw [hu.cfg]; exact hs.stepsPerTick_pos
  have hrise : slotsRising 0 t.slots = true := by rw [hu.slots]; exact hs.slotsInOrder
  have hslots : ∀ e ∈ t.slots, e.2.Legal t.cfg := by rw [hu.slots, hu.cfg]; exact hs.slotsLegal
  rcases Nat.lt_or_ge (t.tickStep + 1) t.cfg.stepsPerTick with hin | hlast
  · rw [endStep_inside hin]
    exact ⟨hcfg, hd.indexRange, hd.pcRange, hd.stackRange, hd.memory, rfl, hin, fun _ => active_iff.2 hact, hstop,
      hrise, hslots⟩
  · rw [endStep_last hlast]
    exact ⟨hcfg, hd.indexRange, hd.pcRange, hd.stackRange, hd.memory, rfl, hpos, fun h => absurd rfl h, hstop,
      hrise, hslots⟩

theorem inv_of_instructionStep (hs : s.Inv) (ha : s.active = true) (h : instructionStep s = .next t) : t.Inv := by
  rcases instructionStep_cases s with ⟨f, hf⟩ | ⟨op, i, u, -, hd, hx, hu, hstep⟩
  · cases hf.symm.trans h
    exact hs.takeFault f
  · cases hstep.symm.trans h
    have hnone : u.fault = none := hu.fault.trans (active_iff.1 ha).2
    rw [finish_of_none hnone]
    exact hs.endStep ha hu ((completed_of_exec hx hnone).dataLegal (wellFormed_of_decode hd) hs.dataLegal)

end Steps

/-! ### Host inputs keep the state legal -/

section Host
variable {s t : State}

/-- Between two moves of a legal state that starts no step the block is between two ticks. -/
theorem State.Inv.tickStep_eq_zero (hs : s.Inv) (h : ∀ s0, ¬ StepStartsAt s s0) : s.tickStep = 0 := by
  by_contra ht
  exact h s ⟨hs.insideTick ht, .inl ⟨.inl ht, rfl⟩⟩

theorem State.Inv.startBlock (hs : s.Inv) : (startBlock s).Inv :=
  { hs with
    tickRange := hs.stepsPerTick_pos
    insideTick := fun h => absurd rfl h
    stopRecorded := nofun }

theorem State.Inv.stopBlock (hs : s.Inv) (ht : s.tickStep = 0) : (stopBlock s).Inv := by
  obtain ⟨b, hb⟩ := stopBlock_eq s
  rw [hb]
  exact { hs with insideTick := fun h => absurd ht h, stopRecorded := fun _ => rfl }

/-- The reset block is legal whatever it was before, where its parameters and the kept slots are. -/
theorem inv_resetBlock (hc : s.cfg.wf = true) (hr : slotsRising 0 s.slots = true)
    (hl : ∀ e ∈ s.slots, e.2.Legal s.cfg) : (resetBlock s).Inv where
  config := hc
  indexRange := show (0 : Word).toNat < 0x1000 by decide
  pcRange := show (0x200 : Word).toNat < 0x1000 by decide
  stackRange j := by simp [State.stackAt, resetBlock, State.reset]
  memory := rfl
  redrawClear := rfl
  tickRange := by
    simp only [Config.wf, Bool.and_eq_true, decide_eq_true_eq] at hc
    exact hc.1
  insideTick h := absurd rfl h
  stopRecorded := nofun
  slotsInOrder := hr
  slotsLegal := hl

theorem State.Inv.loadRom (hs : s.Inv) (bytes : List Byte) : (loadRom bytes s).Inv := by
  rcases Nat.lt_or_ge memSize (bytes.length + programBase) with h | h
  · rw [loadRom_tooLarge s h]
    exact { hs with }
  · rw [loadRom_fits s h]
    exact { hs with memory := Memory.wf_putAll (by omega) hs.memory }

theorem State.Inv.snapshot_legal (hs : s.Inv) : s.snapshot.Legal s.cfg :=
  ⟨hs.indexRange, hs.pcRange, hs.stackRange, hs.memory, hs.redrawClear⟩

theorem State.Inv.save (hs : s.Inv) (slot : Nat) : ({ s with slots := putSlot s.slots slot s.snapshot } : State).Inv :=
  { hs with
    slotsInOrder := slotsRising_putSlot slot _ (Nat.zero_le _) hs.slotsInOrder
    slotsLegal := fun e he => by
      rcases mem_putSlot he with he | rfl
      · exact hs.slotsLegal e he
      · exact hs.snapshot_legal }

theorem State.Inv.restoreFrom (hs : s.Inv) {p : Snapshot} (hp : p.Legal s.cfg) : (s.restoreFrom p).Inv :=
  { hs with
    indexRange := hp.indexRange
    pcRange := hp.pcRange
    stackRange := hp.stackRange
    memory := hp.memory
    redrawClear := hp.redrawClear }

theorem whileStopped_next {c : HostInput} {o : Outcome} (h : whileStopped c s o = .next t) : o = .next t := by
  cases hr : s.run with
  | running => rw [whileStopped_running s hr] at h; cases h
  | stopped => rwa [whileStopped_stopped s hr] at h

theorem inv_of_hostInput {c : HostInput} (hs : s.Inv) (ht : s.tickStep = 0) (h : hostInput c s = .next t) : t.Inv := by
  cases c with
  | tick => cases h; exact hs
  | cmdRun => cases whileStopped_next h; exact hs.startBlock
  | cmdStop => cases h; exact hs.stopBlock ht
  | cmdReset => cases whileStopped_next h; exact inv_resetBlock hs.config hs.slotsInOrder hs.slotsLegal
  | cmdLoadRom bytes => injection whileStopped_next h with e; exact e ▸ hs.loadRom bytes
  | cmdSave slot => cases h; exact hs.save slot
  | cmdRestore slot =>
    have h := whileStopped_next h
    cases hp : findSlot s.slots slot with
    | none => rw [hp] at h; cases h
    | some p => rw [hp] at h; cases h; exact hs.restoreFrom (hs.slotsLegal _ (mem_of_findSlot hp))
  | setKeys keys => cases h; exact { hs with }
  | setQuirks a b => cases h; exact { hs with }

theorem inv_of_hostMove (hs : s.Inv) (ht : s.tickStep = 0) (h : hostMove s = .next t) : t.Inv := by
  cases hi : s.inputs with
  | nil => simp only [hostMove, hi] at h; cases h; exact hs
  | cons c rest =>
    simp only [hostMove, hi] at h
    have hrest : ({ s with inputs := rest } : State).Inv := { hs with }
    exact inv_of_hostInput hrest ht h

end Host

/-! ### The statements of 10_state.md -/

/-- Settles O49: a move is a step of the instruction stream from a legal state or a host input between two ticks. -/
theorem stepKeepsTheStateLegal : Obligations.StepKeepsTheStateLegal := by
  intro s t hs h
  by_cases hstart : ∃ s0, StepStartsAt s s0
  · obtain ⟨s0, h0⟩ := hstart
    rw [step_of_start h0] at h
    obtain ⟨hs0, ha0⟩ := hs.stepStart h0
    exact inv_of_instructionStep hs0 ha0 h
  · rw [not_exists] at hstart
    rw [step_of_no_start hstart] at h
    exact inv_of_hostMove hs (hs.tickStep_eq_zero hstart) h

/-- Settles O48: the reset state is a reset block without slots. -/
theorem resetStateIsLegal : Obligations.ResetStateIsLegal :=
  inv_resetBlock (s := State.reset) rfl rfl (by simp [State.reset])

/-- Settles O22, by the register frame of an instruction that completes and by its flag. -/
theorem onlyFlagInstructionsAndDestinationsWriteVF : Obligations.OnlyFlagInstructionsAndDestinationsWriteVF := by
  intro i s t h
  refine ⟨fun hf hd => ?_, fun hf _ ht => (completed_of_exec h ht).flag hf⟩
  rcases exec_cases h with ⟨f, rfl⟩ | hc
  · exact takeFault_readV s f regF
  · exact hc.keepsRegs regF (by simpa [hf] using hd)

/-- Settles O29: CALL and RET by their arms, every other instruction by its frame. -/
theorem onlyCallAndReturnMoveTheStackPointer : Obligations.OnlyCallAndReturnMoveTheStackPointer := by
  intro i s t h
  refine ⟨?_, ?_, fun hcall hret => ?_⟩
  · rintro ⟨nnn, rfl⟩; cases h; rfl
  · rintro rfl; cases h; rfl
  · rcases exec_cases h with ⟨f, rfl⟩ | hc
    · exact takeFault_sp s f
    · exact hc.keepsParts .sp (sp_notMem_instrWrites hcall hret)

/-- Settles O43, by the frame of an instruction that completes and the frame of a fault. -/
theorem instructionsWriteOnlyTheirParts : Obligations.InstructionsWriteOnlyTheirParts := by
  intro i s t hm hs h
  refine ⟨fun ht => ?_, fun ht => ?_⟩
  · have hc := completed_of_exec h ht
    exact ⟨hc.keepsParts, hc.keepsRegs, hc.keepsBytes hm⟩
  · obtain ⟨f, rfl⟩ := takeFault_of_exec h hs ht
    exact keepsAllBut_takeFault s f

/-- Settles O42: inside a tick the next move is a step that starts in the state itself. -/
theorem hostInputsAreConstantInsideATick : Obligations.HostInputsAreConstantInsideATick := by
  intro s t ha ht h
  rw [step_of_start (s0 := s) ⟨ha, .inl ⟨.inl ht, rfl⟩⟩] at h
  rcases instructionStep_cases s with ⟨f, hf⟩ | ⟨op, i, u, -, -, -, hu, hstep⟩
  · cases hf.symm.trans h
    exact ⟨rfl, rfl, rfl, rfl⟩
  · cases hstep.symm.trans h
    rw [finish_of_none (hu.fault.trans (active_iff.1 ha).2)]
    obtain ⟨hk, hl, hsh, hi⟩ := endStep_keeps_hostFields u
    exact ⟨hk.trans hu.keys, hl.trans hu.loadStore, hsh.trans hu.shift, hi.trans hu.inputs⟩

/-- Settles O50: a step without a fault ends by `endStep`, and the instruction has left the counters. -/
theorem everyStepMovesOnePositionInTheTicks : Obligations.EveryStepMovesOnePositionInTheTicks := by
  intro s s0 t hs h0 h ht
  rw [step_of_start h0] at h
  obtain ⟨hs0, ha0⟩ := hs.stepStart h0
  rcases instructionStep_cases s0 with ⟨f, hf⟩ | ⟨op, i, u, -, -, -, hu, hstep⟩
  · cases hf.symm.trans h
    cases ht
  · cases hstep.symm.trans h
    rw [finish_of_none (hu.fault.trans (active_iff.1 ha0).2)]
    obtain ⟨hcount, hcfg, hpos⟩ := endStep_position (t := u) (by rw [hu.tickStep, hu.cfg]; exact hs0.tickRange)
    rw [hu.stepCounter] at hcount
    rw [hu.cycleCounter, hu.tickStep, hu.cfg] at hpos
    rw [hcfg, hu.cfg]
    rw [h0.eq_inputs] at hcount hpos ⊢
    exact ⟨hcount, rfl, hpos⟩

/-- Settles O11: the length and the index of a pixel in the buffer. -/
theorem redrawCarriesTheBufferRowByRow : Obligations.RedrawCarriesTheBufferRowByRow := by
  intro scr
  refine ⟨scr.length_bytes, fun x y hx hy => ?_⟩
  have hk : y * 64 + x < scr.bytes.length := by rw [scr.length_bytes]; omega
  have hbyte := scr.getD_bytes hx hy
  rw [List.getD_eq_getElem _ _ hk] at hbyte
  rw [List.getElem?_eq_getElem hk, hbyte, pixelByte]

/-- Settles O47: the font stands in what an unlisted address reads as; every other field is written out in the reset
state. -/
theorem resetGivesEveryFieldItsValue : Obligations.ResetGivesEveryFieldItsValue := by
  refine ⟨fun a ha => dif_pos ha, fun a ha => dif_neg (Nat.not_lt.2 ha), fun r => ?_, rfl, rfl, fun j => ?_, rfl, rfl,
    rfl, Screen.pixel_blank, rfl, fun k => ?_, rfl, rfl, rfl, rfl, rfl, rfl, rfl⟩
  · simp [State.readV, State.reset]
  · simp [State.stackAt, State.reset]
  · simp [State.reset]

end Sys2Proof.Machine

/-! PROOFS of the statements of 20_memory.md: a single access inside and outside the address space, that a canonical
memory is determined by its bytes, and that fetch sees what FX55 has stored. -/

namespace Sys2Proof

/-- The two bytes of a big-endian word do not overlap (R65). -/
theorem wordOfBytes_toNat (hi lo : Byte) : (wordOfBytes hi lo).toNat = hi.toNat * 256 + lo.toNat := by
  have := hi.isLt
  have := lo.isLt
  rw [wordOfBytes, BitVec.toNat_ofNat]; omega

end Sys2Proof

namespace Sys2Proof.Machine

/-! ### A single access (R62, R63) -/

section Access
variable (s : State) {a : Nat}

theorem memRead_inRange (kind : AccessKind) (h : a < memSize) : memRead s kind a = .ok (s.byteAt a) :=
  if_neg (Nat.not_le.2 h)

theorem memRead_out (kind : AccessKind) (h : memSize ≤ a) : memRead s kind a = .error (.memOutOfRange a kind) :=
  if_pos h

theorem memWrite_inRange (b : Byte) (h : a < memSize) :
    memWrite s a b = .ok (s.setMem (Memory.put s.cfg s.mem a b)) :=
  if_neg (Nat.not_le.2 h)

theorem memWrite_out (b : Byte) (h : memSize ≤ a) : memWrite s a b = .error (.memOutOfRange a .write) :=
  if_pos h

/-- Reading after one write: the byte at its address, every other byte as before. -/
theorem State.byteAt_put (x : Nat) (b : Byte) (hm : Memory.wf s.cfg s.mem = true) :
    (s.setMem (Memory.put s.cfg s.mem a b)).byteAt x = if x = a then b else s.byteAt x :=
  Memory.byteAt_put hm

end Access

/-! ### A canonical memory is determined by its bytes (log 4) -/

section Canonical
variable {cfg : Config}

/-- An address that does not read as unlisted is at or above the memory's first possible one. -/
theorem Memory.le_of_byteAt_ne_unlisted {lo a : Nat} {m : Memory} (hm : Memory.wfFrom cfg lo m = true)
    (ha : Memory.byteAt cfg m a ≠ unlisted cfg a) : lo ≤ a :=
  Nat.le_of_not_lt fun h => ha (byteAt_below hm h)

@[simp] theorem Memory.byteAt_cons_self (k : Nat) (b : Byte) (rest : Memory) :
    Memory.byteAt cfg ((k, b) :: rest) k = b := if_pos rfl

theorem Memory.byteAt_cons_of_ne {k a : Nat} (h : k ≠ a) (b : Byte) (rest : Memory) :
    Memory.byteAt cfg ((k, b) :: rest) a = Memory.byteAt cfg rest a := if_neg h

/-- The first cell of a canonical memory is listed in every other canonical memory with the same bytes, so it does
not stand before the first cell of that one. -/
theorem Memory.head_le_head {lo lo' k k' : Nat} {b b' : Byte} {m m' : Memory}
    (hm : Memory.wfFrom cfg lo ((k, b) :: m) = true) (hm' : Memory.wfFrom cfg lo' ((k', b') :: m') = true)
    (h : ∀ a, Memory.byteAt cfg ((k, b) :: m) a = Memory.byteAt cfg ((k', b') :: m') a) : k' ≤ k := by
  obtain ⟨-, -, hb, -⟩ := wfFrom_cons.1 hm
  obtain ⟨-, hk', hb', hrest'⟩ := wfFrom_cons.1 hm'
  refine le_of_byteAt_ne_unlisted (wfFrom_cons.2 ⟨Nat.le_refl k', hk', hb', hrest'⟩) ?_
  rwa [← h k, byteAt_cons_self]

/-- Two memories whose first cells agree, and are each the only one for their address, have the same bytes after
them. -/
theorem Memory.byteAt_tail_eq {k : Nat} {b : Byte} {m m' : Memory} (hm : Memory.wfFrom cfg (k + 1) m = true)
    (hm' : Memory.wfFrom cfg (k + 1) m' = true)
    (h : ∀ a, Memory.byteAt cfg ((k, b) :: m) a = Memory.byteAt cfg ((k, b) :: m') a) (a : Nat) :
    Memory.byteAt cfg m a = Memory.byteAt cfg m' a := by
  by_cases hk : k = a
  · rw [byteAt_below hm (by omega), byteAt_below hm' (by omega)]
  · simpa only [byteAt_cons_of_ne hk] using h a

/-- No cell of a canonical memory holds what its address reads as unlisted, so reading tells which cells there are. -/
theorem Memory.eq_of_byteAt_eq :
    ∀ {lo lo' : Nat} {m m' : Memory}, Memory.wfFrom cfg lo m = true → Memory.wfFrom cfg lo' m' = true →
      (∀ a, Memory.byteAt cfg m a = Memory.byteAt cfg m' a) → m = m'
  | _, _, [], [], _, _, _ => rfl
  | _, _, [], (k, b) :: m', _, hm', h => by
    obtain ⟨-, -, hb, -⟩ := wfFrom_cons.1 hm'
    exact absurd ((h k).trans (byteAt_cons_self k b m')).symm hb
  | _, _, (k, b) :: m, [], hm, _, h => by
    obtain ⟨-, -, hb, -⟩ := wfFrom_cons.1 hm
    exact absurd ((byteAt_cons_self k b m).symm.trans (h k)) hb
  | _, _, (k, b) :: m, (k', b') :: m', hm, hm', h => by
    obtain rfl : k = k' := Nat.le_antisymm (head_le_head hm' hm fun a => (h a).symm) (head_le_head hm hm' h)
    obtain rfl : b = b' := by simpa using h k
    obtain ⟨-, -, -, hrest⟩ := wfFrom_cons.1 hm
    obtain ⟨-, -, -, hrest'⟩ := wfFrom_cons.1 hm'
    rw [eq_of_byteAt_eq hrest hrest' (byteAt_tail_eq hrest hrest' h)]

end Canonical

/-! ### What FX55 leaves in memory (R184) -/

/-- Each register up to X stands at its place in the block that FX55 stores. -/
theorem State.byteAt_stored (s : State) {x k : Reg} (hfit : s.dataBase + x.val + 1 ≤ memSize)
    (hm : Memory.wf s.cfg s.mem = true) (hk : k ≤ x) :
    (s.setMem (Memory.putAll s.cfg s.mem s.dataBase (s.lowV x))).byteAt (s.dataBase + k.val) = s.readV k := by
  have hkx : k.val ≤ x.val := hk
  have hlen := s.length_lowV x
  rw [s.byteAt_putAll _ _ _ (by omega) hm, if_pos (by omega), Nat.add_sub_cancel_left, s.getD_lowV x k hk]

/-! ### The statements of 20_memory.md -/

/-- Settles O12: the access inside the address space reads after the write, the access outside it faults. -/
theorem memoryReadsBackWhatIsWritten : Obligations.MemoryReadsBackWhatIsWritten := by
  intro s kind a b hm
  refine ⟨fun ha => ⟨memRead_inRange s kind ha, _, memWrite_inRange s b ha, ?_, fun x hx => ?_,
    keepsAllBut_setMem s _⟩, fun ha => ⟨memRead_out s kind ha, memWrite_out s b ha⟩⟩
  · rw [memRead_inRange _ kind ha, s.byteAt_put a b hm, if_pos rfl]
  · rw [s.byteAt_put x b hm, if_neg (by omega)]

/-- Settles O13, by induction on the two lists of cells. -/
theorem memoriesWithEqualBytesAreEqual : Obligations.MemoriesWithEqualBytesAreEqual :=
  fun _ _ _ hm hm' h => Memory.eq_of_byteAt_eq hm hm' h

/-- Settles O14: the next PC and the address after it hold the two registers, and both are in the stored block. -/
theorem storedBytesAreFetchedAtOnce : Obligations.StoredBytesAreFetchedAtOnce := by
  intro s x k k' hm hfit hkk' hk'x hpc
  have hk' : k'.val ≤ x.val := hk'x
  have hkx : k ≤ x := Fin.le_def.2 (by omega)
  have hblock : s.dataBase + x.val + 1 ≤ memSize := hfit
  refine ⟨_, execLdMemVx_fits s x hblock, ?_⟩
  have hnext : (((s.setMem (Memory.putAll s.cfg s.mem s.dataBase (s.lowV x))).bumpI x).advancePc).pc.toNat =
      s.dataBase + k.val := by
    simp [mask12_toNat, hpc]
  rw [fetch_inRange (by omega), hnext, Nat.add_assoc, ← hkk']
  simp only [State.advancePc_byteAt, State.bumpI_byteAt]
  rw [s.byteAt_stored hblock hm hkx, s.byteAt_stored hblock hm hk'x]

/-- Settles O7: fetch in range, at the last byte of the address space, and outside it. -/
theorem fetchReadsTheBigEndianWord : Obligations.FetchReadsTheBigEndianWord := by
  intro s
  refine ⟨fun h => ⟨_, fetch_inRange h, wordOfBytes_toNat _ _⟩, fun h => fetch_lastByte ?_, fetch_outside⟩
  rw [h]; rfl

end Sys2Proof.Machine

/-! PROOFS of the statements of 30_encoding.md. The row of an instruction and the operand fields of a word say all
about both coders: a word with the fixed bits of a row decodes to the row's instruction, with the operands read from the
word's fields (`decode_of_fits`), and every other word is one of R87 (`decode_dispatched`). -/

namespace Sys2Proof

/-! ### A word put together from its own fields (R81, R83) -/

section Fields
variable {op : Word} {major : Nat} (hm : bits 15 12 op = major)
include hm

theorem packNNN_fields : packNNN major (fieldNNN op) = op := by
  apply BitVec.eq_of_toNat_eq
  have := op.isLt
  rw [bits_eq] at hm
  simp only [packNNN, fieldNNN, bits_eq, BitVec.toNat_ofNat]; omega

theorem packXNN_fields {nn : Nat} (hn : bits 7 0 op = nn) : packXNN major (fieldX op) nn = op := by
  apply BitVec.eq_of_toNat_eq
  have := op.isLt
  rw [bits_eq] at hm hn
  simp only [packXNN, fieldX, regAt, BitVec.toNat_ofNat]; omega

theorem packXYN_fields {n : Nat} (hn : bits 3 0 op = n) : packXYN major (fieldX op) (fieldY op) n = op := by
  apply BitVec.eq_of_toNat_eq
  have := op.isLt
  rw [bits_eq] at hm hn
  simp only [packXYN, fieldX, fieldY, regAt, BitVec.toNat_ofNat]; omega

/-- With 0 in place of the low nibble only the three upper nibbles are left (R86). -/
theorem toNat_packXYN_zero : (packXYN major (fieldX op) (fieldY op) 0).toNat = op.toNat / 16 * 16 := by
  have := op.isLt
  rw [bits_eq] at hm
  simp only [packXYN, fieldX, fieldY, regAt, BitVec.toNat_ofNat]; omega

/-- Every major but 5 and 9 leaves no bit of the word undecoded. -/
theorem toNat_of_otherMajor (hne : ¬ (major = 0x5 ∨ major = 0x9)) {w : Word} (hw : w = op) :
    w.toNat = if bits 15 12 op = 0x5 ∨ bits 15 12 op = 0x9 then op.toNat / 16 * 16 else op.toNat := by
  rw [hm, if_neg hne, hw]

end Fields

theorem bits_low_eq_fieldNN (op : Word) : bits 7 0 op = (fieldNN op).toNat := by
  simp only [fieldNN, bits_eq, BitVec.toNat_ofNat]; omega

/-! ### The instruction of a row, read from a word (R92) -/

/-- The instruction of the same row of the table whose operands are the fields of the word. -/
def Instr.readFrom (op : Word) : Instr → Instr
  | .cls => .cls
  | .ret => .ret
  | .jp _ => .jp (fieldNNN op)
  | .call _ => .call (fieldNNN op)
  | .seImm _ _ => .seImm (fieldX op) (fieldNN op)
  | .sneImm _ _ => .sneImm (fieldX op) (fieldNN op)
  | .seReg _ _ => .seReg (fieldX op) (fieldY op)
  | .ldImm _ _ => .ldImm (fieldX op) (fieldNN op)
  | .addImm _ _ => .addImm (fieldX op) (fieldNN op)
  | .mov _ _ => .mov (fieldX op) (fieldY op)
  | .or _ _ => .or (fieldX op) (fieldY op)
  | .and _ _ => .and (fieldX op) (fieldY op)
  | .xor _ _ => .xor (fieldX op) (fieldY op)
  | .add _ _ => .add (fieldX op) (fieldY op)
  | .sub _ _ => .sub (fieldX op) (fieldY op)
  | .shr _ _ => .shr (fieldX op) (fieldY op)
  | .subn _ _ => .subn (fieldX op) (fieldY op)
  | .shl _ _ => .shl (fieldX op) (fieldY op)
  | .sneReg _ _ => .sneReg (fieldX op) (fieldY op)
  | .ldI _ => .ldI (fieldNNN op)
  | .jpV0 _ => .jpV0 (fieldNNN op)
  | .rnd _ _ => .rnd (fieldX op) (fieldNN op)
  | .drw _ _ _ => .drw (fieldX op) (fieldY op) (fieldN op)
  | .skp _ => .skp (fieldX op)
  | .sknp _ => .sknp (fieldX op)
  | .ldVxDt _ => .ldVxDt (fieldX op)
  | .ldVxK _ => .ldVxK (fieldX op)
  | .ldDtVx _ => .ldDtVx (fieldX op)
  | .ldStVx _ => .ldStVx (fieldX op)
  | .addIVx _ => .addIVx (fieldX op)
  | .ldFVx _ => .ldFVx (fieldX op)
  | .ldBVx _ => .ldBVx (fieldX op)
  | .ldMemVx _ => .ldMemVx (fieldX op)
  | .ldVxMem _ => .ldVxMem (fieldX op)

theorem Instr.row_readFrom (op : Word) (i : Instr) : (i.readFrom op).row = i.row := by
  cases i <;> rfl

theorem Row.fits_one_iff {m : String} {h l v : Nat} {op : Word} :
    (Row.mk m [(h, l, v)]).fits op = true ↔ bits h l op = v := by
  simp [Row.fits]

theorem Row.fits_two_iff {m : String} {h l v h' l' v' : Nat} {op : Word} :
    (Row.mk m [(h, l, v), (h', l', v')]).fits op = true ↔ bits h l op = v ∧ bits h' l' op = v' := by
  simp [Row.fits]

/-- All sixteen bits of the word are fixed. -/
theorem eq_of_bits_all {op w : Word} (h : bits 15 0 op = w.toNat) : op = w := by
  apply BitVec.eq_of_toNat_eq
  have := op.isLt
  rw [bits_eq] at h; omega

/-! ### A word with the fixed bits of a row decodes to the row's instruction -/

section Fits
variable {op : Word} {i : Instr} (h : i.row.fits op = true)
include h

/-- The first-level dispatch on the major, and the second-level dispatch on the other fixed bits (R84, R85). -/
theorem decode_of_fits : decode op = .ok (i.readFrom op) := by
  cases i with
  | cls => rw [eq_of_bits_all (w := 0x00E0) (Row.fits_one_iff.1 h)]; rfl
  | ret => rw [eq_of_bits_all (w := 0x00EE) (Row.fits_one_iff.1 h)]; rfl
  | jp | call | seImm | sneImm | seReg | ldImm | addImm | sneReg | ldI | jpV0 | rnd | drw =>
    simp only [decode, Row.fits_one_iff.1 h, Instr.readFrom]
  | mov | or | and | xor | add | sub | shr | subn | shl =>
    obtain ⟨hlow, hmajor⟩ := Row.fits_two_iff.1 h
    simp only [decode, hmajor, decodeAlu, fieldN, hlow, Instr.readFrom]
  | skp | sknp =>
    obtain ⟨hlow, hmajor⟩ := Row.fits_two_iff.1 h
    simp only [decode, hmajor, decodeKey, hlow, Instr.readFrom]
  | ldVxDt | ldVxK | ldDtVx | ldStVx | addIVx | ldFVx | ldBVx | ldMemVx | ldVxMem =>
    obtain ⟨hlow, hmajor⟩ := Row.fits_two_iff.1 h
    simp only [decode, hmajor, decodeMisc, hlow, Instr.readFrom]

/-- R87 lists no word that has the fixed bits of a row. -/
theorem not_unknownWord_of_fits : ¬ UnknownWord op := by
  cases i with
  | cls => rw [eq_of_bits_all (w := 0x00E0) (Row.fits_one_iff.1 h)]; simp [UnknownWord, bits_eq]
  | ret => rw [eq_of_bits_all (w := 0x00EE) (Row.fits_one_iff.1 h)]; simp [UnknownWord, bits_eq]
  | jp | call | seImm | sneImm | seReg | ldImm | addImm | sneReg | ldI | jpV0 | rnd | drw =>
    simp [UnknownWord, Row.fits_one_iff.1 h]
  | mov | or | and | xor | add | sub | shr | subn | shl | skp | sknp | ldVxDt | ldVxK | ldDtVx | ldStVx | addIVx
  | ldFVx | ldBVx | ldMemVx | ldVxMem =>
    obtain ⟨hlow, hmajor⟩ := Row.fits_two_iff.1 h
    simp [UnknownWord, hmajor, hlow]

/-- Encoding what was read gives the word back, but for the nibble that the majors 5 and 9 do not decode (R86). -/
theorem toNat_encode_readFrom :
    (encode (i.readFrom op)).toNat =
      if bits 15 12 op = 0x5 ∨ bits 15 12 op = 0x9 then op.toNat / 16 * 16 else op.toNat := by
  cases i with
  | cls => rw [eq_of_bits_all (w := 0x00E0) (Row.fits_one_iff.1 h)]; rfl
  | ret => rw [eq_of_bits_all (w := 0x00EE) (Row.fits_one_iff.1 h)]; rfl
  | seReg | sneReg =>
    have hmajor := Row.fits_one_iff.1 h
    rw [if_pos (by simp [hmajor])]
    exact toNat_packXYN_zero hmajor
  | jp | call | ldI | jpV0 =>
    have hmajor := Row.fits_one_iff.1 h
    exact toNat_of_otherMajor hmajor (by decide) (packNNN_fields hmajor)
  | seImm | sneImm | ldImm | addImm | rnd =>
    have hmajor := Row.fits_one_iff.1 h
    exact toNat_of_otherMajor hmajor (by decide) (packXNN_fields hmajor (bits_low_eq_fieldNN op))
  | drw =>
    have hmajor := Row.fits_one_iff.1 h
    exact toNat_of_otherMajor hmajor (by decide) (packXYN_fields hmajor rfl)
  | mov | or | and | xor | add | sub | shr | subn | shl =>
    obtain ⟨hlow, hmajor⟩ := Row.fits_two_iff.1 h
    exact toNat_of_otherMajor hmajor (by decide) (packXYN_fields hmajor hlow)
  | skp | sknp | ldVxDt | ldVxK | ldDtVx | ldStVx | addIVx | ldFVx | ldBVx | ldMemVx | ldVxMem =>
    obtain ⟨hlow, hmajor⟩ := Row.fits_two_iff.1 h
    exact toNat_of_otherMajor hmajor (by decide) (packXNN_fields hmajor hlow)

end Fits

/-! ### What the decoder can answer (R87, R88) -/

/-- The answer to a word is an instruction whose row's fixed bits the word has, or the rejection of a word of R87. -/
def Dispatched (op : Word) (r : Except Reject Instr) : Prop :=
  (∃ i, r = .ok i ∧ i.row.fits op = true) ∨ (r = .error (.unknownOpcode op) ∧ UnknownWord op)

section Dispatch
variable {op : Word}

theorem dispatched_ok {i : Instr} (h : i.row.fits op = true) : Dispatched op (.ok i) := .inl ⟨i, rfl, h⟩

theorem dispatched_decodeFixed (hm : bits 15 12 op = 0x0) : Dispatched op (decodeFixed op) := by
  have all : bits 15 0 op = op.toNat := by have := op.isLt; rw [bits_eq]; omega
  unfold decodeFixed
  split
  case h_3 hcls hret =>
    exact .inr ⟨rfl, .inl ⟨hm, fun e => hcls (by rw [e]; rfl), fun e => hret (by rw [e]; rfl)⟩⟩
  all_goals exact dispatched_ok (Row.fits_one_iff.2 (all.trans ‹_›))

theorem dispatched_decodeAlu (hm : bits 15 12 op = 0x8) : Dispatched op (decodeAlu op) := by
  unfold decodeAlu
  split
  case h_10 =>
    have hlt : bits 3 0 op < 16 := by rw [bits_eq]; omega
    refine .inr ⟨rfl, .inr (.inl ⟨hm, ?_⟩)⟩
    simp only [fieldN, imp_false] at *
    simp only [List.mem_cons, List.not_mem_nil, or_false]
    omega
  all_goals exact dispatched_ok (Row.fits_two_iff.2 ⟨‹_›, hm⟩)

theorem dispatched_decodeKey (hm : bits 15 12 op = 0xE) : Dispatched op (decodeKey op) := by
  unfold decodeKey
  split
  case h_3 =>
    refine .inr ⟨rfl, .inr (.inr (.inl ⟨hm, ?_⟩))⟩
    simp only [imp_false] at *
    simp [*]
  all_goals exact dispatched_ok (Row.fits_two_iff.2 ⟨‹_›, hm⟩)

theorem dispatched_decodeMisc (hm : bits 15 12 op = 0xF) : Dispatched op (decodeMisc op) := by
  unfold decodeMisc
  split
  case h_10 =>
    refine .inr ⟨rfl, .inr (.inr (.inr ⟨hm, ?_⟩))⟩
    simp only [imp_false] at *
    simp [*]
  all_goals exact dispatched_ok (Row.fits_two_iff.2 ⟨‹_›, hm⟩)

theorem decode_dispatched (op : Word) : Dispatched op (decode op) := by
  unfold decode
  split
  case h_1 hm => exact dispatched_decodeFixed hm
  case h_9 hm => exact dispatched_decodeAlu hm
  case h_15 hm => exact dispatched_decodeKey hm
  case h_16 =>
    have hlt : bits 15 12 op < 16 := by rw [bits_eq]; omega
    simp only [imp_false] at *
    exact dispatched_decodeMisc (by omega)
  all_goals exact dispatched_ok (Row.fits_one_iff.2 ‹_›)

/-- A decoded word has the fixed bits of its instruction's row, and the instruction is read from it. -/
theorem fits_and_readFrom_of_decode {i : Instr} (h : decode op = .ok i) :
    i.row.fits op = true ∧ i.readFrom op = i := by
  obtain ⟨j, hj, hfit⟩ | ⟨he, -⟩ := decode_dispatched op
  · cases hj.symm.trans h
    exact ⟨hfit, Except.ok.inj ((decode_of_fits hfit).symm.trans h)⟩
  · cases he.symm.trans h

theorem unknownWord_of_decode_error {e : Reject} (h : decode op = .error e) : UnknownWord op := by
  obtain ⟨j, hj, -⟩ | ⟨-, hu⟩ := decode_dispatched op
  · cases hj.symm.trans h
  · exact hu

theorem decode_of_unknownWord (h : UnknownWord op) : decode op = .error (.unknownOpcode op) := by
  obtain ⟨j, -, hfit⟩ | ⟨he, -⟩ := decode_dispatched op
  · exact absurd h (not_unknownWord_of_fits hfit)
  · exact he

end Dispatch

/-! ### The word of an instruction -/

/-- The word of a well-formed instruction has the fixed bits of its row (R92), by the law of each instruction. -/
theorem row_fits_encode (i : Instr) (h : i.wellFormed = true) : i.row.fits (encode i) = true := by
  cases i with
  | cls => exact Laws.TableRow.cls h
  | ret => exact Laws.TableRow.ret h
  | jp nnn => exact Laws.TableRow.jp nnn h
  | call nnn => exact Laws.TableRow.call nnn h
  | seImm x nn => exact Laws.TableRow.seImm x nn h
  | sneImm x nn => exact Laws.TableRow.sneImm x nn h
  | seReg x y => exact Laws.TableRow.seReg x y h
  | ldImm x nn => exact Laws.TableRow.ldImm x nn h
  | addImm x nn => exact Laws.TableRow.addImm x nn h
  | mov x y => exact Laws.TableRow.mov x y h
  | or x y => exact Laws.TableRow.or x y h
  | and x y => exact Laws.TableRow.and x y h
  | xor x y => exact Laws.TableRow.xor x y h
  | add x y => exact Laws.TableRow.add x y h
  | sub x y => exact Laws.TableRow.sub x y h
  | shr x y => exact Laws.TableRow.shr x y h
  | subn x y => exact Laws.TableRow.subn x y h
  | shl x y => exact Laws.TableRow.shl x y h
  | sneReg x y => exact Laws.TableRow.sneReg x y h
  | ldI nnn => exact Laws.TableRow.ldI nnn h
  | jpV0 nnn => exact Laws.TableRow.jpV0 nnn h
  | rnd x nn => exact Laws.TableRow.rnd x nn h
  | drw x y n => exact Laws.TableRow.drw x y n h
  | skp x => exact Laws.TableRow.skp x h
  | sknp x => exact Laws.TableRow.sknp x h
  | ldVxDt x => exact Laws.TableRow.ldVxDt x h
  | ldVxK x => exact Laws.TableRow.ldVxK x h
  | ldDtVx x => exact Laws.TableRow.ldDtVx x h
  | ldStVx x => exact Laws.TableRow.ldStVx x h
  | addIVx x => exact Laws.TableRow.addIVx x h
  | ldFVx x => exact Laws.TableRow.ldFVx x h
  | ldBVx x => exact Laws.TableRow.ldBVx x h
  | ldMemVx x => exact Laws.TableRow.ldMemVx x h
  | ldVxMem x => exact Laws.TableRow.ldVxMem x h

/-- The fields of the word of a well-formed instruction are its operands (R81, R83). -/
theorem readFrom_encode (i : Instr) (h : i.wellFormed = true) : i.readFrom (encode i) = i := by
  cases i with
  | cls | ret => rfl
  | jp nnn => exact congrArg Instr.jp (fieldNNN_packNNN (by decide) (of_decide_eq_true h))
  | call nnn => exact congrArg Instr.call (fieldNNN_packNNN (by decide) (of_decide_eq_true h))
  | ldI nnn => exact congrArg Instr.ldI (fieldNNN_packNNN (by decide) (of_decide_eq_true h))
  | jpV0 nnn => exact congrArg Instr.jpV0 (fieldNNN_packNNN (by decide) (of_decide_eq_true h))
  | seImm x nn | sneImm x nn | ldImm x nn | addImm x nn | rnd x nn =>
    simp only [Instr.readFrom, encode]
    rw [fieldX_packXNN (by decide) nn.isLt, fieldNN_packXNN (by decide)]
  | seReg x y | sneReg x y | mov x y | or x y | and x y | xor x y | add x y | sub x y | shr x y | subn x y | shl x y =>
    simp only [Instr.readFrom, encode]
    rw [fieldX_packXYN (by decide) (by decide), fieldY_packXYN (by decide) (by decide)]
  | drw x y n =>
    have hn : n < 16 := of_decide_eq_true h
    simp only [Instr.readFrom, encode]
    rw [fieldX_packXYN (by decide) hn, fieldY_packXYN (by decide) hn, fieldN_packXYN (by decide) hn]
  | skp x | sknp x | ldVxDt x | ldVxK x | ldDtVx x | ldStVx x | addIVx x | ldFVx x | ldBVx x | ldMemVx x | ldVxMem x =>
    simp only [Instr.readFrom, encode]
    rw [fieldX_packXNN (by decide) (by decide)]

theorem decode_encode (i : Instr) (h : i.wellFormed = true) : decode (encode i) = .ok i := by
  rw [decode_of_fits (row_fits_encode i h), readFrom_encode i h]

/-- On bytes the decoder answers as on the word, and leaves the bytes after the two (R80). -/
theorem decodeBytes_of_decode {hi lo : Byte} {i : Instr} (h : decode (wordOfBytes hi lo) = .ok i) (rest : List Byte) :
    decodeBytes (hi :: lo :: rest) = .ok (i, rest) := by
  simp only [decodeBytes, h]

end Sys2Proof

namespace Sys2Proof.Machine

/-! ### What a step does with the word it fetches (R90) -/

theorem finish_eq (t : State) : finish t = if t.fault = none then endStep t else t := by
  cases h : t.fault <;> simp [finish, h]

/-- A fault is taken into the state, so every instruction answers a next state (R301). -/
theorem exec_next (i : Instr) (s : State) : ∃ t, exec i s = .next t := by
  rcases exec_completesOrFaults s i with ⟨t, ht, -⟩ | ⟨f, hf⟩
  · exact ⟨t, ht⟩
  · exact ⟨_, hf⟩

section Word
variable {s : State} {op : Word} (hf : fetch s = .ok op)
include hf

theorem instructionStep_of_decode {i : Instr} (hd : decode op = .ok i) :
    instructionStep s = finishOutcome (exec i s) := by
  simp only [instructionStep, hf, runWord, hd]

theorem instructionStep_of_reject {e : Reject} (hd : decode op = .error e) :
    instructionStep s = .next (takeFault (rejectFault op e) s) := by
  simp only [instructionStep, hf, runWord, hd]

end Word

/-! ### How an instruction that completes moves PC (R91) -/

section Advance
variable {s t : State}

theorem pcAdvancedBy_advancePc (h : t.pc = s.pc) : PcAdvancedBy 2 s t.advancePc := by
  rw [PcAdvancedBy, State.advancePc_pc, mask12_toNat, h]

theorem pcAdvancedBy_skipIf (s : State) (b : Bool) :
    PcAdvancedBy 2 s (s.skipIf b) ∨ PcAdvancedBy 4 s (s.skipIf b) := by
  simp only [PcAdvancedBy, State.skipIf_pc_toNat]
  cases b <;> simp

/-- FX0A that leaves the state as it was has found no key pressed: with a key pressed it counts a draw (R234). -/
theorem no_key_of_waiting {x : Reg} (h : exec (.ldVxK x) s = .next s) (k : Reg) : s.keys[k.val] = false := by
  have hnone : pickKey s.draws (pressedKeys s) = none := by
    cases hp : pickKey s.draws (pressedKeys s) with
    | none => rfl
    | some j =>
      simp only [exec, execLdVxK, hp, Host.Outcome.next.injEq] at h
      have hdraws := congrArg State.draws h
      simp at hdraws
  have hk : k ∉ pressedKeys s := by rw [pickKey_none.1 hnone]; exact List.not_mem_nil
  simpa using hk

/-- An instruction that writes nothing but PC is a jump or one of the six skips (R110). -/
theorem jump_or_skip_of_instrWrites_nil {i : Instr} (h : instrWrites i = []) :
    (∃ nnn, i = .jp nnn ∨ i = .jpV0 nnn) ∨
      ∃ x y nn,
        i = .seImm x nn ∨ i = .sneImm x nn ∨ i = .seReg x y ∨ i = .sneReg x y ∨ i = .skp x ∨ i = .sknp x := by
  cases i with
  | jp nnn | jpV0 nnn => exact .inl ⟨nnn, by simp⟩
  | seImm x nn | sneImm x nn => exact .inr ⟨x, 0, nn, by simp⟩
  | seReg x y | sneReg x y => exact .inr ⟨x, y, 0, by simp⟩
  | skp x | sknp x => exact .inr ⟨x, 0, 0, by simp⟩
  | _ => cases h

end Advance

/-! ### The statements of 30_encoding.md -/

/-- Settles O1: the word of an instruction has the fixed bits of its row, and its fields are the operands. -/
theorem decodeOfEncodeIsTheInstruction : Obligations.DecodeOfEncodeIsTheInstruction := fun i h =>
  ⟨decode_encode i h, decodeBytes_of_decode (by rw [wordOfBytes_bytes, decode_encode i h]) []⟩

/-- Settles O2: the instruction is read from the word, and packing the fields of a word gives the word. -/
theorem encodeOfDecodeIsTheWord : Obligations.EncodeOfDecodeIsTheWord := by
  intro op i h
  obtain ⟨hfit, hread⟩ := fits_and_readFrom_of_decode h
  have henc := toNat_encode_readFrom hfit
  rw [hread] at henc
  exact ⟨wellFormed_of_decode h, henc⟩

/-- Settles O3: a word that has the fixed bits of a row decodes to an instruction of that row, and to one only. -/
theorem decodedWordFitsExactlyItsTableRow : Obligations.DecodedWordFitsExactlyItsTableRow := by
  refine ⟨fun op i j h => ⟨fun hj => ?_, fun hj => ?_⟩, fun op e h => ⟨decode_error h, fun j => ?_⟩⟩
  · have hij : j.readFrom op = i := Except.ok.inj ((decode_of_fits hj).symm.trans h)
    rw [← hij, Instr.row_readFrom]
  · rw [hj]
    exact (fits_and_readFrom_of_decode h).1
  · refine Bool.eq_false_iff.2 fun hj => ?_
    cases (decode_of_fits hj).symm.trans h

/-- Settles O4: the decoder rejects the words of R87 and no others, and a step takes a rejection as a fault. -/
theorem unknownWordsAreExactlyThoseOfTheDispatch : Obligations.UnknownWordsAreExactlyThoseOfTheDispatch := by
  refine ⟨fun op => ⟨unknownWord_of_decode_error, decode_of_unknownWord⟩, fun op hop => ?_,
    fun s s0 op h0 hf hop => ?_⟩
  · cases hd : decode op with
    | ok i => exact ⟨i, rfl⟩
    | error e => exact absurd (unknownWord_of_decode_error hd) hop
  · rw [step_of_start h0, instructionStep_of_reject hf (decode_of_unknownWord hop)]
    rfl

/-- Settles O30: each way an instruction can complete either moves PC past itself or belongs to an exception. -/
theorem pcAdvancesByTwoButForTransfersSkipsAndWaiting : Obligations.PcAdvancesByTwoButForTransfersSkipsAndWaiting := by
  intro i s t _ h ht
  cases completed_of_exec h ht with
  | ret a => exact .inl (.inl rfl)
  | call nnn | jump nnn | jumpIndexed nnn => exact .inl (.inr ⟨nnn, by simp⟩)
  | skip b _ hw =>
    rcases jump_or_skip_of_instrWrites_nil hw with ⟨nnn, hj⟩ | hs
    · exact .inl (.inr ⟨nnn, hj.imp_right .inr⟩)
    · exact .inr (.inl ⟨hs, pcAdvancedBy_skipIf s b⟩)
  | waiting x => exact .inr (.inr (.inl ⟨⟨x, rfl⟩, no_key_of_waiting h, rfl⟩))
  | clear | sprite | register | drawn | resultFlag | index | delay | sound | digits | stored | loaded =>
    exact .inr (.inr (.inr (pcAdvancedBy_advancePc (by simp))))

/-- Settles O5: the major is the only fixed field of the two rows. -/
theorem lowNibbleOfRegisterSkipsIsIgnored : Obligations.LowNibbleOfRegisterSkipsIsIgnored := fun _ =>
  ⟨fun h => decode_of_fits (i := .seReg 0 0) (Row.fits_one_iff.2 h),
    fun h => decode_of_fits (i := .sneReg 0 0) (Row.fits_one_iff.2 h)⟩

/-- Settles O6: each word is the encoding of the instruction. -/
theorem wordsOfTheFormatsDecode : Obligations.WordsOfTheFormatsDecode :=
  ⟨decode_encode .ret rfl, decode_encode (.call 0xABC) rfl, decode_encode (.sneImm 0xC 0x5D) rfl,
    decode_encode (.shl 0xA 0x3) rfl, decode_encode (.drw 0x1 0x2 0xF) rfl, decode_encode (.sknp 0x5) rfl,
    decode_encode (.ldBVx 0x7) rfl⟩

/-- Settles O8: the step is the end of what the instruction answers, and the end depends on its fault. -/
theorem stepRunsTheDecodedInstruction : Obligations.StepRunsTheDecodedInstruction := by
  intro s s0 op i h0 hf hd
  obtain ⟨t, ht⟩ := exec_next i s0
  refine ⟨t, ht, ?_⟩
  rw [step_of_start h0, instructionStep_of_decode hf hd, ht, ← finish_eq]
  rfl

end Sys2Proof.Machine

/-! PROOFS of the statements of 40_control.md. What CALL and RET each do is said once, in O25 and O26; that a return
answers its call, alone or in a nest of up to sixteen, follows from these two. -/

namespace Sys2Proof.Machine

/-! ### The words of a major opcode, and the skip on a condition -/

/-- A row that fixes only the major is decoded from every word of that major (R84). -/
theorem wordsDecodeTo_ofMajor {major : Nat} {name : String} {i : Instr} (h : i.row = ⟨name, [(15, 12, major)]⟩) :
    WordsDecodeTo (OfMajor major) (fun op => i.readFrom op) := fun op hop =>
  decode_of_fits (by rw [h]; exact Row.fits_one_iff.2 hop)

/-- A meaning that ends in a skip on the truth value of `cond` skips when `cond` holds (R111). -/
theorem skipsWhen_of_skipIf {i : Instr} {s : State} {b : Bool} {cond : Prop} (h : exec i s = .next (s.skipIf b))
    (hb : b = true ↔ cond) : SkipsWhen i cond s := by
  refine ⟨_, h, fun hc => ?_, fun hc => ?_, keepsAllBut_skipIf s b⟩
  · rw [hb.2 hc]; exact s.skipIf_pc_toNat true
  · rw [Bool.eq_false_iff.2 fun h => hc (hb.1 h)]; exact s.skipIf_pc_toNat false

/-! ### The statements of 40_control.md about one instruction -/

/-- Settles O23: each of the four is a skip on the comparison it names. -/
theorem comparisonSkipsAdvanceByFourOrTwo : Obligations.ComparisonSkipsAdvanceByFourOrTwo :=
  ⟨wordsDecodeTo_ofMajor (i := .seImm 0 0) rfl, wordsDecodeTo_ofMajor (i := .sneImm 0 0) rfl,
    wordsDecodeTo_ofMajor (i := .seReg 0 0) rfl, wordsDecodeTo_ofMajor (i := .sneReg 0 0) rfl,
    fun _ _ _ _ => ⟨skipsWhen_of_skipIf rfl beq_iff_eq, skipsWhen_of_skipIf rfl bne_iff_ne,
      skipsWhen_of_skipIf rfl beq_iff_eq, skipsWhen_of_skipIf rfl bne_iff_ne⟩⟩

/-- Settles O24: both are one write of PC, and the sum with V0 is masked. -/
theorem jumpsSetOnlyThePc : Obligations.JumpsSetOnlyThePc :=
  ⟨wordsDecodeTo_ofMajor (i := .jp 0) rfl, wordsDecodeTo_ofMajor (i := .jpV0 0) rfl, fun _ s =>
    ⟨⟨_, rfl, rfl, keepsAllBut_setPc s _⟩, ⟨_, rfl, mask12_toNat _, keepsAllBut_setPc s _⟩⟩⟩

/-- Settles O25: a push of PC, then the write of PC. -/
theorem callPushesItsOwnAddress : Obligations.CallPushesItsOwnAddress := by
  refine ⟨wordsDecodeTo_ofMajor (i := .call 0) rfl, fun nnn s =>
    ⟨(s.push s.pc).setPc nnn, rfl, ?_, fun j hj => ?_, rfl, rfl,
      (keepsAllBut_push s _).trans (keepsAllBut_setPc _ nnn)⟩⟩
  · rw [State.setPc_stackAt, State.stackAt_push, if_pos rfl]
  · rw [State.setPc_stackAt, State.stackAt_push, if_neg hj.symm]

/-- Settles O26: a pop, then the write of PC past the entry at the new SP. -/
theorem returnGoesPastThePoppedAddress : Obligations.ReturnGoesPastThePoppedAddress :=
  ⟨decode_encode .ret rfl, fun s =>
    ⟨_, rfl, rfl, mask12_toNat _, (keepsAllBut_pop s).trans (keepsAllBut_setPc _ _)⟩⟩

/-! ### A return answers its call (R120) -/

/-- Settles O27: the RET moves SP back to where the CALL wrote its own address. -/
theorem returnResumesAfterItsCall : Obligations.ReturnResumesAfterItsCall := by
  intro nnn s t u hcall husp hustack
  obtain ⟨t', ht', hentry, -, htsp, -, -⟩ := callPushesItsOwnAddress.2 nnn s
  cases ht'.symm.trans hcall
  obtain ⟨r, hr, hrsp, hrpc, -⟩ := returnGoesPastThePoppedAddress.2 u
  have hback : r.sp = s.sp := by
    apply Fin.ext
    rw [hrsp, husp, htsp]; omega
  exact ⟨r, hr, by rw [hrpc, hback, hustack, hentry], hback⟩

/-! ### Nested calls -/

theorem execAll_concat {is : List Instr} {s t : State} (i : Instr) (h : execAll is s = .next t) :
    execAll (is ++ [i]) s = exec i t := by
  induction is generalizing s with
  | nil =>
    cases h
    obtain ⟨u, hu⟩ := exec_next i t
    simp only [List.nil_append, execAll, hu]
  | cons i' is ih =>
    obtain ⟨u, hu⟩ := exec_next i' s
    simp only [execAll, hu, List.cons_append] at h ⊢
    exact ih h

/-- The address of the call in position `j` of the nest that starts at `s` and calls `targets`; in position
`targets.length` it is where the innermost call went. -/
def callSite (s : State) (targets : List Word) (j : Nat) : Word := (s.pc :: targets).getD j 0

theorem callSite_concat {s : State} {targets : List Word} {j : Nat} (a : Word) (hj : j ≤ targets.length) :
    callSite s (targets ++ [a]) j = callSite s targets j :=
  List.getD_append (s.pc :: targets) [a] 0 j (Nat.lt_succ_of_le hj)

theorem callSite_concat_length (s : State) (targets : List Word) (a : Word) :
    callSite s (targets ++ [a]) (targets.length + 1) = a := by
  simp [callSite]

/-- `t` stands after the calls of `targets` from `s` and `n` returns: SP counts the calls not yet returned, and the
stack still holds the address of every call of the nest, since RET keeps the entry (R112). -/
structure Nested (s : State) (targets : List Word) (n : Nat) (t : State) : Prop where
  sp : t.sp.val = (s.sp.val + (targets.length - n)) % 16
  entries : ∀ (e : Fin 16) (j : Nat), j < targets.length → e.val = (s.sp.val + j) % 16 →
    t.stackAt e = callSite s targets j

section Nest
variable {s t : State} {targets : List Word}

/-- One more call in the nest, while it has fewer than the sixteen that the stack holds, writes over no entry of it. -/
theorem Nested.call (h : Nested s targets 0 t) (hpc : t.pc = callSite s targets targets.length)
    (hlen : targets.length < 16) (a : Word) :
    ∃ u, exec (.call a) t = .next u ∧ Nested s (targets ++ [a]) 0 u ∧
      u.pc = callSite s (targets ++ [a]) (targets ++ [a]).length := by
  obtain ⟨u, hu, hentry, hothers, husp, hupc, -⟩ := callPushesItsOwnAddress.2 a t
  have hsp := h.sp
  refine ⟨u, hu, ⟨?_, fun e j hj he => ?_⟩, ?_⟩
  · rw [husp, hsp, List.length_append, List.length_singleton]; omega
  · rw [List.length_append, List.length_singleton] at hj
    rw [callSite_concat a (Nat.le_of_lt_succ hj)]
    rcases Nat.lt_succ_iff_lt_or_eq.1 hj with hlt | rfl
    · rw [hothers e fun hes => by rw [hes] at he; omega, h.entries e j hlt he]
    · obtain rfl : e = t.sp := Fin.ext (he.trans hsp.symm)
      rw [hentry, hpc]
  · rw [hupc, List.length_append, List.length_singleton, callSite_concat_length]

/-- One more return goes past the call it answers, the innermost one not yet returned. -/
theorem Nested.ret {n : Nat} (h : Nested s targets n t) (hn : n < targets.length) :
    ∃ u, exec .ret t = .next u ∧ Nested s targets (n + 1) u ∧
      u.pc.toNat = ((callSite s targets (targets.length - (n + 1))).toNat + 2) % 0x1000 := by
  obtain ⟨u, hu, husp, hupc, hframe⟩ := returnGoesPastThePoppedAddress.2 t
  have hstack : ∀ e, u.stackAt e = t.stackAt e := hframe .stack (by decide)
  have hsp : u.sp.val = (s.sp.val + (targets.length - (n + 1))) % 16 := by rw [husp, h.sp]; omega
  refine ⟨u, hu, ⟨hsp, fun e j hj he => (hstack e).trans (h.entries e j hj he)⟩, ?_⟩
  rw [hupc, h.entries u.sp _ (by omega) hsp]

variable (s)

theorem nested_calls (hlen : targets.length ≤ 16) :
    ∃ t, execAll (targets.map .call) s = .next t ∧ Nested s targets 0 t ∧
      t.pc = callSite s targets targets.length := by
  induction targets using List.reverseRecOn with
  | nil => exact ⟨s, rfl, ⟨(Nat.mod_eq_of_lt s.sp.isLt).symm, fun _ _ hj => absurd hj (Nat.not_lt_zero _)⟩, rfl⟩
  | append_singleton targets a ih =>
    rw [List.length_append, List.length_singleton] at hlen
    obtain ⟨t, ht, hnest, hpc⟩ := ih (Nat.le_of_succ_le hlen)
    obtain ⟨u, hu, hnext⟩ := hnest.call hpc hlen a
    rw [List.map_append]
    exact ⟨u, (execAll_concat _ ht).trans hu, hnext⟩

theorem nested_returns (hlen : targets.length ≤ 16) {n : Nat} (hn : n ≤ targets.length) :
    ∃ t, execAll (targets.map .call ++ List.replicate n .ret) s = .next t ∧ Nested s targets n t ∧
      (0 < n → t.pc.toNat = ((callSite s targets (targets.length - n)).toNat + 2) % 0x1000) := by
  induction n with
  | zero =>
    obtain ⟨t, ht, hnest, -⟩ := nested_calls s hlen
    exact ⟨t, by rwa [List.replicate_zero, List.append_nil], hnest, fun h => absurd h (Nat.lt_irrefl 0)⟩
  | succ n ih =>
    obtain ⟨t, ht, hnest, -⟩ := ih (Nat.le_of_succ_le hn)
    obtain ⟨u, hu, hnext, hpc⟩ := hnest.ret hn
    rw [List.replicate_succ', ← List.append_assoc]
    exact ⟨u, (execAll_concat _ ht).trans hu, hnext, fun _ => hpc⟩

end Nest

/-- Settles O28: SP and PC of the nest after its last return. -/
theorem sixteenNestedCallsReturn : Obligations.SixteenNestedCallsReturn := by
  intro targets s n hlen hpos hn
  obtain ⟨t, ht, hnest, hpc⟩ := nested_returns s hlen hn
  exact ⟨t, ht, hnest.sp, hpc hpos⟩

end Sys2Proof.Machine

/-! PROOFS of the statements of 41_alu.md. A load, a copy or a logic form is one write of VX, and a form with a flag is
one write of a result and a flag; each shape is framed once, and an instruction's statement then says which values its
meaning writes. -/

namespace Sys2Proof.Machine

/-! ### The words of the family 8XYN -/

/-- A row that fixes the major 8 and the function nibble is decoded from every word of the two (R85). -/
theorem wordsDecodeTo_ofAlu {function : Nat} {name : String} {i : Instr}
    (h : i.row = ⟨name, [(3, 0, function), (15, 12, 0x8)]⟩) :
    WordsDecodeTo (OfAlu function) (fun op => i.readFrom op) := fun op ⟨hmajor, hlow⟩ =>
  decode_of_fits (by rw [h]; exact Row.fits_two_iff.2 ⟨hlow, hmajor⟩)

/-! ### The two shapes of an ALU instruction -/

theorem keepsRegsBut_setV (s : State) (x : Reg) (b : Byte) : KeepsRegsBut [x] s (s.setV x b) := fun r hr => by
  rw [State.readV_setV, if_neg (List.ne_of_not_mem_cons hr).symm]

theorem keepsRegsBut_setResultFlag (s : State) (x : Reg) (r : Byte) (b : Bool) :
    KeepsRegsBut [x, regF] s (s.setResultFlag x r b) := fun r hr => by
  have hx : x ≠ r := fun e => hr (by simp [e])
  have hF : regF ≠ r := fun e => hr (by simp [e])
  rw [State.readV_setResultFlag, if_neg hF, if_neg hx]

theorem readV_regF_setResultFlag (s : State) (x : Reg) (r : Byte) (b : Bool) :
    (s.setResultFlag x r b).readV regF = flagByte b := by
  rw [State.readV_setResultFlag, if_pos rfl]

section Shapes
variable {i : Instr} {x : Reg} {s : State}

/-- A meaning that writes `value` to VX and moves PC past itself. -/
theorem writesOneRegister_of_setV {value : Byte} (h : exec i s = .next (s.setV x value).advancePc) :
    WritesOneRegister i x value s :=
  ⟨_, h, by simp, pcAdvancedBy_advancePc rfl, keepsRegsBut_setV s x value,
    (keepsAllBut_setV s x value).trans (keepsAllBut_advancePc _)⟩

/-- A meaning that writes a result and a flag in the order of R141: where X is F the flag stays. -/
theorem writesResultAndFlag_of_setResultFlag {r : Byte} {b : Bool} {result : Nat} {flag : Prop}
    (h : exec i s = .next (s.setResultFlag x r b).advancePc) (hr : r.toNat = result) (hb : b = true ↔ flag) :
    WritesResultAndFlag i x result flag s := by
  have hF := readV_regF_setResultFlag s x r b
  refine ⟨_, h, fun hx => ?_, fun hf => ?_, fun hf => ?_, pcAdvancedBy_advancePc rfl,
    keepsRegsBut_setResultFlag s x r b, (keepsAllBut_setResultFlag s x r b).trans (keepsAllBut_advancePc _)⟩
  · rw [State.advancePc_readV, State.readV_setResultFlag, if_neg hx.symm, if_pos rfl, hr]
  · rw [State.advancePc_readV, hF, hb.2 hf]; rfl
  · rw [State.advancePc_readV, hF, Bool.eq_false_iff.2 fun e => hf (hb.1 e)]; rfl

end Shapes

/-! ### The results and the shifted-out bits as numbers (R140, R150, R152) -/

theorem toNat_addBytes (a b : Byte) : (addBytes a b).toNat = (a.toNat + b.toNat) % 256 := by
  rw [addBytes, BitVec.toNat_ofNat, Nat.mod_mod]

theorem toNat_subBytes (a b : Byte) : (subBytes a b).toNat = (a.toNat + 256 - b.toNat) % 256 := by
  rw [subBytes, BitVec.toNat_ofNat, Nat.mod_mod]

theorem toNat_shiftRight1 (src : Byte) : (shiftRight1 src).toNat = src.toNat / 2 := by
  rw [shiftRight1, BitVec.toNat_ofNat]; omega

theorem toNat_shiftLeft1 (src : Byte) : (shiftLeft1 src).toNat = src.toNat * 2 % 256 := by
  rw [shiftLeft1, BitVec.toNat_ofNat, Nat.mod_mod]

theorem shiftedOutRight_eq (src : Byte) : shiftedOutRight src = src.getLsbD 0 := (Nat.testBit_zero _).symm

theorem shiftedOutLeft_eq (src : Byte) : shiftedOutLeft src = src.getLsbD 7 := by
  have hmod : src.toNat / 2 ^ 7 % 2 = src.toNat / 128 := Nat.mod_eq_of_lt (by omega)
  rw [shiftedOutLeft, BitVec.getLsbD, Nat.testBit_eq_decide_div_mod_eq, hmod]

/-! ### The statements of 41_alu.md -/

/-- Settles O15: one write of the immediate. -/
theorem loadImmediateWritesItsRegister : Obligations.LoadImmediateWritesItsRegister :=
  ⟨wordsDecodeTo_ofMajor (i := .ldImm 0 0) rfl, fun _ _ _ => writesOneRegister_of_setV rfl⟩

/-- Settles O16: one write of the narrowed sum, and no write of a flag. -/
theorem addImmediateReportsNoCarry : Obligations.AddImmediateReportsNoCarry := by
  refine ⟨wordsDecodeTo_ofMajor (i := .addImm 0 0) rfl, fun x nn s => ?_⟩
  obtain ⟨t, ht, hx, hframe⟩ : WritesOneRegister (.addImm x nn) x (addBytes (s.readV x) nn) s :=
    writesOneRegister_of_setV rfl
  exact ⟨t, ht, by rw [hx, toNat_addBytes], hframe⟩

/-- Settles O17: each of the four is one write of VX. -/
theorem copyAndLogicWriteOnlyTheirRegister : Obligations.CopyAndLogicWriteOnlyTheirRegister :=
  ⟨wordsDecodeTo_ofAlu (i := .mov 0 0) rfl, wordsDecodeTo_ofAlu (i := .or 0 0) rfl,
    wordsDecodeTo_ofAlu (i := .and 0 0) rfl, wordsDecodeTo_ofAlu (i := .xor 0 0) rfl, fun _ _ _ =>
    ⟨writesOneRegister_of_setV rfl, writesOneRegister_of_setV rfl, writesOneRegister_of_setV rfl,
      writesOneRegister_of_setV rfl⟩⟩

/-- Settles O18: the carry is the comparison of the exact sum. -/
theorem addSetsTheCarry : Obligations.AddSetsTheCarry :=
  ⟨wordsDecodeTo_ofAlu (i := .add 0 0) rfl, fun _ _ _ =>
    writesResultAndFlag_of_setResultFlag rfl (toNat_addBytes _ _) decide_eq_true_iff⟩

/-- Settles O19: the two differ in which operand is the minuend. -/
theorem subtractionsSetTheNotBorrow : Obligations.SubtractionsSetTheNotBorrow :=
  ⟨wordsDecodeTo_ofAlu (i := .sub 0 0) rfl, wordsDecodeTo_ofAlu (i := .subn 0 0) rfl, fun _ _ _ =>
    ⟨writesResultAndFlag_of_setResultFlag rfl (toNat_subBytes _ _) decide_eq_true_iff,
      writesResultAndFlag_of_setResultFlag rfl (toNat_subBytes _ _) decide_eq_true_iff⟩⟩

/-- Settles O20: the source of the statement is the model's `shiftSource`. -/
theorem shiftsFollowTheQuirk : Obligations.ShiftsFollowTheQuirk := by
  refine ⟨wordsDecodeTo_ofAlu (i := .shr 0 0) rfl, wordsDecodeTo_ofAlu (i := .shl 0 0) rfl, fun x y s src hsrc => ?_⟩
  obtain rfl : src = shiftSource s x y := hsrc
  exact ⟨writesResultAndFlag_of_setResultFlag rfl (toNat_shiftRight1 _) (by rw [shiftedOutRight_eq]),
    writesResultAndFlag_of_setResultFlag rfl (toNat_shiftLeft1 _) (by rw [shiftedOutLeft_eq])⟩

/-- Settles O21: the draw is counted before the write of VX, and the masked byte is that of the count before. -/
theorem randomByteIsMasked : Obligations.RandomByteIsMasked := by
  refine ⟨wordsDecodeTo_ofMajor (i := .rnd 0 0) rfl, fun x nn s => ?_⟩
  have hx : (s.countDraw.setV x (drawnByte s nn)).advancePc.readV x = Config.rand s.draws &&& nn := by
    rw [State.advancePc_readV, State.readV_setV, if_pos rfl, drawnByte]
  refine ⟨_, rfl, hx, fun hnn => ?_, rfl, pcAdvancedBy_advancePc rfl, keepsRegsBut_setV s.countDraw x _, ?_⟩
  · rw [hx, hnn]; exact BitVec.and_zero
  · exact (((keepsAllBut_countDraw s).trans (keepsAllBut_setV _ x _)).trans (keepsAllBut_advancePc _)).mono (by decide)

end Sys2Proof.Machine

/-! PROOFS of the statements of 42_index_memory.md. ANNN, FX1E and FX29 are one write of I. FX33, FX55 and FX65 either
move all their bytes or fault at the end of the address space; what each leaves where it completes is read off the
block that it stores or loads. -/

namespace Sys2Proof.Machine

/-! ### The words of a function byte -/

/-- A row that fixes the major and the function byte is decoded from every word of the two (R85). -/
theorem wordsDecodeTo_ofFunction {major function : Nat} {name : String} {i : Instr}
    (h : i.row = ⟨name, [(7, 0, function), (15, 12, major)]⟩) :
    WordsDecodeTo (OfFunction major function) (fun op => i.readFrom op) := fun op ⟨hmajor, hlow⟩ =>
  decode_of_fits (by rw [h]; exact Row.fits_two_iff.2 ⟨hlow, hmajor⟩)

/-! ### A write of I -/

theorem glyphAddress_toNat (b : Byte) : (glyphAddress b).toNat = b.toNat * 5 := by
  have := b.isLt
  rw [glyphAddress, BitVec.toNat_ofNat]; omega

theorem keepsAllBut_setI_advancePc (s : State) (a : Word) : KeepsAllBut [.index, .pc] s (s.setI a).advancePc :=
  (keepsAllBut_setI s a).trans (keepsAllBut_advancePc _)

/-- What FX55 and FX65 do to I where they complete is `bumpI` (R184, R185). -/
theorem indexAfterBlock_bumpI {x : Reg} {s t : State} (hi : t.i = s.i) (hq : t.loadStore = s.loadStore) :
    IndexAfterBlock x s (t.bumpI x).advancePc := by
  rw [IndexAfterBlock, State.advancePc_i, ← hi, ← hq]
  refine ⟨fun h => ?_, fun h => ?_⟩
  · rw [State.bumpI_i_toNat, h, if_neg Bool.false_ne_true]
  · rw [State.bumpI, if_pos h]

/-! ### The block of a transfer -/

section Block
variable (s : State)

/-- Each digit of VX, a number below 256, stands at its place in the block that FX33 stores. -/
theorem State.toNat_byteAt_digits {x : Reg} {k n : Nat} (hfit : s.dataBase + 3 ≤ memSize)
    (hm : Memory.wf s.cfg s.mem = true) (hd : (decimalDigits (s.readV x))[k]? = some (BitVec.ofNat 8 n))
    (hn : n < 256) :
    ((s.setMem (Memory.putAll s.cfg s.mem s.dataBase (decimalDigits (s.readV x)))).byteAt
      (s.dataBase + k)).toNat = n := by
  obtain ⟨hk, -⟩ := List.getElem?_eq_some_iff.1 hd
  rw [s.byteAt_putAll _ _ _ hfit hm, if_pos (by omega), Nat.add_sub_cancel_left, List.getD_eq_getElem?_getD, hd,
    Option.getD_some, BitVec.toNat_ofNat]
  exact Nat.mod_eq_of_lt hn

/-- With I inside the address space the first address out of range is 0x1000 (R183 to R185). -/
theorem max_dataBase_memSize (hi : s.i.toNat < 0x1000) : max s.dataBase memSize = 0x1000 :=
  Nat.max_eq_right (Nat.le_of_lt hi)

end Block

/-! ### The statements of 42_index_memory.md -/

/-- Settles O32: the three digits are the block stored, and a block that does not fit ends past 0xFFF. -/
theorem decimalDigitsAreStored : Obligations.DecimalDigitsAreStored := by
  refine ⟨wordsDecodeTo_ofFunction (i := .ldBVx 0) rfl, fun x s hm hi => ⟨fun hfit => ?_, fun hout => ?_⟩⟩
  · have hblock : s.dataBase + 3 ≤ memSize := hfit
    have hdone : Completed s (.ldBVx x) _ := .digits x hblock
    have hvx := (s.readV x).isLt
    exact ⟨_, execLdBVx_fits s x hblock, s.toNat_byteAt_digits (k := 0) hblock hm rfl (by omega),
      s.toNat_byteAt_digits hblock hm rfl (by omega), s.toNat_byteAt_digits hblock hm rfl (by omega),
      hdone.keepsBytes hm, pcAdvancedBy_advancePc rfl, hdone.keepsParts.mono (by simp [instrWrites])⟩
  · rw [← max_dataBase_memSize s hi]
    exact execLdBVx_out s x (Nat.lt_succ_of_le hout)

/-- Settles O33: the block stored holds each register at its place, and I moves as the quirk says. -/
theorem blockStoreWritesTheRegisters : Obligations.BlockStoreWritesTheRegisters := by
  refine ⟨wordsDecodeTo_ofFunction (i := .ldMemVx 0) rfl, fun x s hm hi => ⟨fun hfit => ?_, fun hout => ?_⟩⟩
  · have hblock : s.dataBase + x.val + 1 ≤ memSize := hfit
    have hdone : Completed s (.ldMemVx x) _ := .stored x hblock
    refine ⟨_, execLdMemVx_fits s x hblock, fun k hk => ?_, hdone.keepsBytes hm, indexAfterBlock_bumpI rfl rfl,
      pcAdvancedBy_advancePc (by simp), hdone.keepsParts.mono (by simp [instrWrites])⟩
    rw [State.advancePc_byteAt, State.bumpI_byteAt, s.byteAt_stored hblock hm hk]
  · rw [← max_dataBase_memSize s hi]
    exact execLdMemVx_out s x (Nat.lt_succ_of_le hout)

/-- Settles O34: the registers read back the block loaded, and those above X are not among its destinations. -/
theorem blockLoadReadsTheRegisters : Obligations.BlockLoadReadsTheRegisters := by
  refine ⟨wordsDecodeTo_ofFunction (i := .ldVxMem 0) rfl, fun x s hi => ⟨fun hfit => ?_, fun hout => ?_⟩⟩
  · have hdone : Completed s (.ldVxMem x) _ := .loaded x
    refine ⟨_, execLdVxMem_fits s x hfit, fun k hk => ?_, fun k hk => hdone.keepsRegs k ?_,
      indexAfterBlock_bumpI rfl rfl, pcAdvancedBy_advancePc (by simp), hdone.keepsParts.mono (by simp [instrWrites])⟩
    · rw [State.advancePc_readV, State.bumpI_readV, State.readV_setLowV,
        getD_loadedBytes s (Nat.lt_succ_of_le (Fin.le_def.1 hk))]
    · simpa [instrWritesFlag, instrDests] using hk
  · rw [← max_dataBase_memSize s hi]
    exact execLdVxMem_out s x (Nat.lt_succ_of_le hout)

/-- Settles O31: each of the three is one write of I, with the address it names. -/
theorem indexInstructionsWriteOnlyI : Obligations.IndexInstructionsWriteOnlyI :=
  ⟨wordsDecodeTo_ofMajor (i := .ldI 0) rfl, wordsDecodeTo_ofFunction (i := .addIVx 0) rfl,
    wordsDecodeTo_ofFunction (i := .ldFVx 0) rfl, fun _ _ _ =>
    ⟨⟨_, rfl, rfl, pcAdvancedBy_advancePc rfl, keepsAllBut_setI_advancePc _ _⟩,
      ⟨_, rfl, mask12_toNat _, pcAdvancedBy_advancePc rfl, keepsAllBut_setI_advancePc _ _⟩,
      ⟨_, rfl, glyphAddress_toNat _, pcAdvancedBy_advancePc rfl, keepsAllBut_setI_advancePc _ _⟩⟩⟩

end Sys2Proof.Machine

/-! PROOFS of the statements of 43_display.md. What DXYN does is said twice over the pixels under its set bits: drawn
where all of them lie on the screen, and the fault of the first one that does not. The statements are read off these. -/

namespace Sys2Proof.Machine

/-! ### The pixels of a DXYN (R211) -/

section Pixels
variable (s : State) (x y : Reg) (n : Nat)

/-- The sprite of the DXYN that stands to run has a set bit on the pixel. -/
def DrawCovers (px py : Nat) : Prop := spriteCovers s s.dataBase (spriteColumn s x) (spriteRow s y) n px py

/-- The pixels under the set bits of that sprite, in the order in which the drawing loop meets them. -/
def drawnPixels : List (Nat × Nat) := spritePixels (spriteColumn s x) (spriteRow s y) (loadedBytes s n)

variable {s x y n}

theorem mem_drawnPixels {px py : Nat} : (px, py) ∈ drawnPixels s x y n ↔ DrawCovers s x y n px py := by
  rw [drawnPixels, mem_spritePixels, length_loadedBytes]
  refine exists_congr fun r => exists_congr fun c => and_congr_right fun hr => ?_
  rw [getD_loadedBytes s hr]

/-- The pixel of a set bit whose predecessors all lie on the screen has only pixels on the screen before it. -/
theorem drawnPixels_cut {r c : Nat} (hr : r < n) (hc : c < 8)
    (hbit : (s.byteAt (s.dataBase + r)).getLsbD (7 - c) = true)
    (hbefore : ∀ r' c', r' < r ∨ (r' = r ∧ c' < c) → c' < 8 → (s.byteAt (s.dataBase + r')).getLsbD (7 - c') = true →
      spriteColumn s x + c' < 64 ∧ spriteRow s y + r' < 32) :
    ∃ ps qs, drawnPixels s x y n = ps ++ (spriteColumn s x + c, spriteRow s y + r) :: qs ∧ ∀ p ∈ ps, OnScreen p := by
  obtain ⟨ps, qs, hcut, hps⟩ := spritePixels_cut (x0 := spriteColumn s x) (loadedBytes s n) (spriteRow s y) r c
    (by rwa [length_loadedBytes]) hc (by rwa [getD_loadedBytes s hr])
  refine ⟨ps, qs, hcut, fun p hp => ?_⟩
  obtain ⟨r', c', hlt, hc', hbit', rfl⟩ := hps p hp
  rw [getD_loadedBytes s (by omega)] at hbit'
  exact hbefore r' c' hlt hc' hbit'

end Pixels

/-! ### What a DXYN does once its bytes are in memory (R211) -/

/-- The state of a DXYN that completes, with the screen it has drawn and its collision flag. -/
def State.afterDraw (s : State) (scr : Screen) (collided : Bool) : State :=
  ((s.showScreen scr).setFlag collided).advancePc

theorem State.readV_afterDraw (s : State) (scr : Screen) (b : Bool) (r : Reg) :
    (s.afterDraw scr b).readV r = if regF = r then flagByte b else s.readV r := by
  rw [afterDraw, advancePc_readV, readV_setFlag, showScreen_readV]

section Draw
variable {s : State} {x y : Reg} {n : Nat}

theorem exec_drw_fits (hfit : n = 0 ∨ s.dataBase + n ≤ memSize) :
    exec (.drw x y n) s = commitOrFault s ((drawPixels s.screen false (drawnPixels s x y n)).map
      fun r => s.afterDraw r.1 r.2) :=
  execDrw_fits s x y n hfit

variable (s x y n) in
/-- The screen and the collision flag that a completed DXYN leaves. -/
structure Drawn (scr : Screen) (collided : Bool) : Prop where
  toggled : ∀ px py, DrawCovers s x y n px py → scr.pixel px py = !s.screen.pixel px py
  kept : ∀ px py, ¬ DrawCovers s x y n px py → scr.pixel px py = s.screen.pixel px py
  collision : collided = true ↔ ∃ px py, DrawCovers s x y n px py ∧ s.screen.pixel px py = true

theorem exec_drw_onScreen (hfit : n = 0 ∨ s.dataBase + n ≤ memSize)
    (hin : ∀ px py, DrawCovers s x y n px py → px < 64 ∧ py < 32) :
    ∃ scr b, exec (.drw x y n) s = .next (s.afterDraw scr b) ∧ Drawn s x y n scr b := by
  obtain ⟨scr, hdraw, hpix⟩ := drawPixels_onScreen (drawnPixels s x y n) s.screen false
    (fun p hp => hin p.1 p.2 (mem_drawnPixels.1 hp)) (nodup_spritePixels _ _ _)
  refine ⟨scr, _, by rw [exec_drw_fits hfit, hdraw]; rfl, fun px py h => ?_, fun px py h => ?_, ?_⟩
  · rw [hpix, decide_eq_true (mem_drawnPixels.2 h), Bool.xor_true]
  · rw [hpix, decide_eq_false (mt mem_drawnPixels.1 h), Bool.xor_false]
  · simp only [Bool.false_or, List.any_eq_true, Prod.exists, mem_drawnPixels]

theorem exec_drw_offScreen {px py : Nat} {ps qs : List (Nat × Nat)} (hfit : n = 0 ∨ s.dataBase + n ≤ memSize)
    (hcut : drawnPixels s x y n = ps ++ (px, py) :: qs) (hps : ∀ p ∈ ps, OnScreen p) (hout : ¬ OnScreen (px, py)) :
    exec (.drw x y n) s = .next (takeFault (.drawOutOfRange px py) s) := by
  rw [exec_drw_fits hfit, hcut, drawPixels_offScreen ps _ _ px py qs hps hout]; rfl

namespace Drawn
variable {scr : Screen} {b : Bool} (h : Drawn s x y n scr b)
include h

theorem vf_of_collision (hc : ∃ px py, DrawCovers s x y n px py ∧ s.screen.pixel px py = true) :
    (s.afterDraw scr b).readV regF = 1 := by
  rw [s.readV_afterDraw, if_pos rfl, h.collision.2 hc]; rfl

theorem vf_of_no_collision (hc : ∀ px py, DrawCovers s x y n px py → s.screen.pixel px py = false) :
    (s.afterDraw scr b).readV regF = 0 := by
  have hb : b ≠ true := fun e => by
    obtain ⟨px, py, hcov, hset⟩ := h.collision.1 e
    exact Bool.false_ne_true ((hc px py hcov).symm.trans hset)
  rw [s.readV_afterDraw, if_pos rfl, Bool.eq_false_iff.2 hb]; rfl

end Drawn

/-- A draw moves no sprite whose place is not taken from VF, the register it writes. -/
theorem drawCovers_afterDraw (hx : x ≠ regF) (hy : y ≠ regF) (scr : Screen) (b : Bool) (px py : Nat) :
    DrawCovers (s.afterDraw scr b) x y n px py ↔ DrawCovers s x y n px py := by
  rw [DrawCovers, spriteColumn, spriteRow, s.readV_afterDraw, s.readV_afterDraw, if_neg hx.symm, if_neg hy.symm]; rfl

end Draw

/-! ### The statements of 43_display.md -/

/-- Settles O36: the pixels are those of the drawing loop, and VF is its collision flag. -/
theorem drawTogglesThePixelsUnderSetBits : Obligations.DrawTogglesThePixelsUnderSetBits := by
  refine ⟨wordsDecodeTo_ofMajor (i := .drw 0 0 0) rfl, fun x y n s hfit hin => ?_⟩
  obtain ⟨scr, b, hexec, hdrawn⟩ := exec_drw_onScreen hfit hin
  have hdone : Completed s (.drw x y n) _ := .sprite x y n scr b
  exact ⟨_, hexec, hdrawn.toggled, hdrawn.kept, hdrawn.vf_of_collision, hdrawn.vf_of_no_collision, rfl,
    pcAdvancedBy_advancePc rfl, hdone.keepsRegs, hdone.keepsParts.mono (by simp [instrWrites])⟩

/-- Settles O37: no byte is read past 0xFFF, and the drawing loop stops where the list of pixels leaves the screen. -/
theorem drawFaultsPrecisely : Obligations.DrawFaultsPrecisely := by
  refine fun x y n s hi => ⟨fun hout => ?_, fun r c hfit hr hc hbit hoff hbefore => ?_⟩
  · have hn : n ≠ 0 := by rintro rfl; exact Nat.lt_asymm hout hi
    rw [← max_dataBase_memSize s hi]
    exact execDrw_out s x y n hn hout
  · obtain ⟨ps, qs, hcut, hps⟩ := drawnPixels_cut hr hc hbit hbefore
    exact exec_drw_offScreen (.inr hfit) hcut hps fun ⟨hcol, hrow⟩ =>
      hoff.elim (Nat.not_le_of_lt hcol) (Nat.not_le_of_lt hrow)

/-- Settles O38: the second draw covers the pixels of the first, so it inverts each of them back, and it finds set
exactly those that were unset. -/
theorem drawingTwiceRestoresTheScreen : Obligations.DrawingTwiceRestoresTheScreen := by
  intro x y n s hx hy hfit hin
  obtain ⟨scr, b, hexec, hfirst⟩ := exec_drw_onScreen (.inr hfit) hin
  have hsame := drawCovers_afterDraw (s := s) (n := n) hx hy scr b
  obtain ⟨scr', b', hexec', hsecond⟩ := exec_drw_onScreen (s := s.afterDraw scr b) (.inr hfit)
    fun px py hcov => hin px py ((hsame px py).1 hcov)
  have hflip : ∀ {px py}, DrawCovers s x y n px py → (s.afterDraw scr b).screen.pixel px py = !s.screen.pixel px py :=
    fun hcov => hfirst.toggled _ _ hcov
  refine ⟨_, _, hexec, hexec', Screen.ext_pixel fun px py _ _ => ?_, ?_, fun hc => ?_⟩
  · by_cases hcov : DrawCovers s x y n px py
    · exact (hsecond.toggled px py ((hsame px py).2 hcov)).trans (by rw [hflip hcov, Bool.not_not])
    · exact (hsecond.kept px py (mt (hsame px py).1 hcov)).trans (hfirst.kept px py hcov)
  · rintro ⟨px, py, hcov, hunset⟩
    exact hsecond.vf_of_collision ⟨px, py, (hsame px py).2 hcov, by rw [hflip hcov, hunset]; rfl⟩
  · refine hsecond.vf_of_no_collision fun px py hcov => ?_
    have hcov := (hsame px py).1 hcov
    rw [hflip hcov, hc px py hcov]; rfl

/-- Settles O35: CLS shows the blank screen and moves PC past itself. -/
theorem clearScreenBlanksEveryPixel : Obligations.ClearScreenBlanksEveryPixel :=
  ⟨rfl, fun s => ⟨_, rfl, Screen.pixel_blank, rfl, pcAdvancedBy_advancePc rfl,
    (Completed.clear (s := s)).keepsParts.mono (by decide)⟩⟩

end Sys2Proof.Machine

/-! PROOFS of the statements of 44_keys_timers.md. EX9E and EXA1 look up a key and skip on it, so what the look-up
gives below 16 and from 16 on is said once for both. FX0A either finds no key and waits, or takes a pressed one. -/

namespace Sys2Proof.Machine

/-! ### The skip on a key (R230) -/

section KeySkip
variable {s : State} {b : Byte}

/-- A skip on a key that the byte names. -/
theorem keySkip_named (c : Bool → Bool) (h : b.toNat < 16) :
    commitOrFault s ((keyAt s b).map fun pressed => s.skipIf (c pressed)) = .next (s.skipIf (c s.keys[b.toNat])) := by
  rw [keyAt_lt s h]; rfl

/-- A skip on a byte that names no key. -/
theorem keySkip_unnamed (c : Bool → Bool) (h : 16 ≤ b.toNat) :
    commitOrFault s ((keyAt s b).map fun pressed => s.skipIf (c pressed)) =
      .next (takeFault (.keyIndexOutOfRange b) s) := by
  rw [keyAt_ge s h]; rfl

end KeySkip

/-! ### The wait for a key (R234) -/

section Wait
variable {s : State} (x : Reg)

theorem pressedKeys_eq_nil (h : ∀ k : Reg, s.keys[k.val] = false) : pressedKeys s = [] :=
  List.eq_nil_iff_forall_not_mem.2 fun k hk => by
    rw [mem_pressedKeys, h k] at hk; cases hk

/-- With a key pressed the draw of KEY_PICK answers a pressed key. -/
theorem pickKey_of_pressed (n : Nat) {j : Reg} (h : s.keys[j.val] = true) :
    ∃ k : Reg, pickKey n (pressedKeys s) = some k ∧ s.keys[k.val] = true := by
  cases hp : pickKey n (pressedKeys s) with
  | none => exact absurd ((mem_pressedKeys s j).2 h) (by rw [pickKey_none.1 hp]; exact List.not_mem_nil)
  | some k => exact ⟨k, rfl, (mem_pressedKeys s k).1 (pickKey_mem hp)⟩

theorem exec_ldVxK_waits (h : ∀ k : Reg, s.keys[k.val] = false) : exec (.ldVxK x) s = .next s := by
  simp only [exec, execLdVxK, pickKey_none.2 (pressedKeys_eq_nil h)]

theorem exec_ldVxK_takes {k : Reg} (h : pickKey s.draws (pressedKeys s) = some k) :
    exec (.ldVxK x) s = .next (s.countDraw.setV x (BitVec.ofNat 8 k.val)).advancePc := by
  simp only [exec, execLdVxK, h]

end Wait

/-! ### The statements of 44_keys_timers.md -/

/-- Settles O39: the two skips differ in whether the truth value of the key is negated. -/
theorem keySkipsTestTheKeyOrFault : Obligations.KeySkipsTestTheKeyOrFault :=
  ⟨wordsDecodeTo_ofFunction (i := .skp 0) rfl, wordsDecodeTo_ofFunction (i := .sknp 0) rfl, fun _ _ =>
    ⟨fun h => ⟨skipsWhen_of_skipIf (keySkip_named id h) Iff.rfl,
        skipsWhen_of_skipIf (keySkip_named Bool.not h) (Bool.not_eq_true' _).to_iff⟩,
      fun h => ⟨keySkip_unnamed id h, keySkip_unnamed Bool.not h⟩⟩⟩

/-- Settles O40: each of the three is one write of the byte it copies. -/
theorem timerInstructionsCopyBytes : Obligations.TimerInstructionsCopyBytes :=
  ⟨wordsDecodeTo_ofFunction (i := .ldVxDt 0) rfl, wordsDecodeTo_ofFunction (i := .ldDtVx 0) rfl,
    wordsDecodeTo_ofFunction (i := .ldStVx 0) rfl, fun _ s =>
    ⟨writesOneRegister_of_setV rfl,
      ⟨_, rfl, rfl, pcAdvancedBy_advancePc rfl, (keepsAllBut_setDt s _).trans (keepsAllBut_advancePc _)⟩,
      ⟨_, rfl, rfl, pcAdvancedBy_advancePc rfl, (keepsAllBut_setSt s _).trans (keepsAllBut_advancePc _)⟩⟩⟩

/-- Settles O41: with no key pressed there is none to take, and else the draw of KEY_PICK is a pressed key. -/
theorem waitForKeyPollsOrTakesAPressedKey : Obligations.WaitForKeyPollsOrTakesAPressedKey := by
  refine ⟨wordsDecodeTo_ofFunction (i := .ldVxK 0) rfl, fun x s => ⟨exec_ldVxK_waits x, fun ⟨_, hj⟩ => ?_⟩⟩
  obtain ⟨k, hk, hpressed⟩ := pickKey_of_pressed s.draws hj
  have hx : ((s.countDraw.setV x (BitVec.ofNat 8 k.val)).advancePc.readV x).toNat = k.val := by
    rw [State.advancePc_readV, State.readV_setV, if_pos rfl, BitVec.toNat_ofNat, Nat.mod_eq_of_lt (by omega)]
  exact ⟨_, exec_ldVxK_takes x hk, ⟨k, hpressed, hx⟩, pcAdvancedBy_advancePc rfl, keepsRegsBut_setV s.countDraw x _,
    (Completed.drawn (i := .ldVxK x) x _ rfl rfl rfl).keepsParts.mono (by simp [instrWrites])⟩

end Sys2Proof.Machine

/-! PROOFS of the statements of 60_exceptions.md: what starts a step or lets a host input through, what every host
input but the reset command keeps, the causes an instruction can raise (`Raises`), and a run of steps on the ticks
(`TickedOn`). The statements are read off these. -/

namespace Sys2Proof.Machine

/-! ### A move is a step of the instruction stream or a host input (R320, R335) -/

section Moves
variable {s s0 t : State}

theorem inactive_of_stopped (h : s.run = .stopped) : s.active = false := by
  rw [State.active, h]; rfl

theorem inactive_of_fault (h : s.fault ≠ none) : s.active = false :=
  Bool.eq_false_iff.2 fun ha => h (active_iff.1 ha).2

/-- In a block that takes no step, or between two ticks, the next host input takes effect; a tick event does so only in
the former. -/
theorem step_of_input {c : HostInput} {rest : List HostInput} (hi : s.inputs = c :: rest)
    (h : s.active = false ∨ s.tickStep = 0 ∧ c ≠ .tick) : step s = hostInput c { s with inputs := rest } := by
  have hno : ∀ s0, ¬ StepStartsAt s s0 :=
    h.elim not_start_of_inactive fun ⟨ht, hc⟩ => not_start_of_input ht hi hc
  rw [step_of_no_start hno]
  simp only [hostMove, hi]

/-- R303: a faulted block takes no step, Running or not. -/
theorem step_of_fault (h : s.fault ≠ none) : step s = hostMove s :=
  step_of_no_start (not_start_of_inactive (inactive_of_fault h))

theorem step_of_fault_of_no_input (h : s.fault ≠ none) (hi : s.inputs = []) : step s = .next s := by
  rw [step_of_fault h]
  simp only [hostMove, hi]

theorem StepStartsAt.fault_eq_none (h : StepStartsAt s s0) : s0.fault = none := by
  rw [h.eq_inputs]
  exact (active_iff.1 h.1).2

/-- What a step of the instruction stream answers: the fault taken from the state it starts in, or the end of the step
after an instruction that has completed. -/
theorem step_cases (h0 : StepStartsAt s s0) (h : step s = .next t) :
    (∃ f, t = takeFault f s0) ∨ ∃ u, Untouched s0 u ∧ t = endStep u := by
  rw [step_of_start h0] at h
  rcases instructionStep_cases s0 with ⟨f, hf⟩ | ⟨op, i, u, -, -, -, hu, hstep⟩
  · cases hf.symm.trans h
    exact .inl ⟨f, rfl⟩
  · cases hstep.symm.trans h
    exact .inr ⟨u, hu, finish_of_none (hu.fault.trans h0.fault_eq_none)⟩

end Moves

/-! ### What a host input keeps of the fault record and the counters (R303, R335) -/

/-- The fault record and both counters are as they were. -/
def KeepsRecord (s t : State) : Prop :=
  t.fault = s.fault ∧ t.stepCounter = s.stepCounter ∧ t.cycleCounter = s.cycleCounter

section Record
variable {s t : State}

theorem keepsRecord_stopBlock (s : State) : KeepsRecord s (stopBlock s) := by
  obtain ⟨b, hb⟩ := stopBlock_eq s
  rw [hb]
  exact ⟨rfl, rfl, rfl⟩

theorem keepsRecord_loadRom (s : State) (bytes : List Byte) : KeepsRecord s (loadRom bytes s) := by
  rcases Nat.lt_or_ge memSize (bytes.length + programBase) with h | h
  · rw [loadRom_tooLarge s h]; exact ⟨rfl, rfl, rfl⟩
  · rw [loadRom_fits s h]; exact ⟨rfl, rfl, rfl⟩

theorem keepsRecord_of_hostInput {c : HostInput} (hc : c ≠ .cmdReset) (h : hostInput c s = .next t) :
    KeepsRecord s t := by
  cases c with
  | tick | cmdSave | setKeys | setQuirks => cases h; exact ⟨rfl, rfl, rfl⟩
  | cmdRun => cases whileStopped_next h; exact ⟨rfl, rfl, rfl⟩
  | cmdStop => cases h; exact keepsRecord_stopBlock s
  | cmdReset => exact absurd rfl hc
  | cmdLoadRom bytes => injection whileStopped_next h with e; exact e ▸ keepsRecord_loadRom s bytes
  | cmdRestore slot =>
    have h := whileStopped_next h
    cases hp : findSlot s.slots slot with
    | none => rw [hp] at h; cases h
    | some p => rw [hp] at h; cases h; exact ⟨rfl, rfl, rfl⟩

theorem keepsRecord_of_hostMove (hr : ∀ rest, s.inputs ≠ .cmdReset :: rest) (h : hostMove s = .next t) :
    KeepsRecord s t := by
  cases hi : s.inputs with
  | nil => simp only [hostMove, hi] at h; cases h; exact ⟨rfl, rfl, rfl⟩
  | cons c rest =>
    simp only [hostMove, hi] at h
    exact keepsRecord_of_hostInput (s := { s with inputs := rest }) (fun e => hr rest (e ▸ hi)) h

/-- No host input raises a fault: the reset command clears it, every other one keeps the record. -/
theorem fault_eq_none_of_hostMove (hs : s.fault = none) (h : hostMove s = .next t) : t.fault = none := by
  by_cases hr : ∃ rest, s.inputs = .cmdReset :: rest
  · obtain ⟨rest, hi⟩ := hr
    simp only [hostMove, hi] at h
    cases whileStopped_next h
    rfl
  · exact (keepsRecord_of_hostMove (not_exists.1 hr) h).1.trans hs

/-- A restore from a slot that holds a snapshot, in a stopped block (R341). -/
theorem hostInput_cmdRestore {slot : Nat} {p : Snapshot} (hrun : s.run = .stopped)
    (hp : findSlot s.slots slot = some p) : hostInput (.cmdRestore slot) s = .next (s.restoreFrom p) := by
  simp only [hostInput, whileStopped_stopped s hrun, hp]

end Record

/-! ### The causes an instruction can raise (R300) -/

/-- The instruction, started in `s`, raises the fault: one constructor for each way to. -/
inductive Raises (s : State) : Instr → Fault → Prop where
  | rowsOut (x y : Reg) (n : Nat) : Raises s (.drw x y n) (.memOutOfRange (max s.dataBase memSize) .read)
  | pixelOut (x y : Reg) (n : Nat) {px py : Nat} (h : 64 ≤ px ∨ 32 ≤ py) :
      Raises s (.drw x y n) (.drawOutOfRange px py)
  | loadOut (x : Reg) : Raises s (.ldVxMem x) (.memOutOfRange (max s.dataBase memSize) .read)
  | digitsOut (x : Reg) : Raises s (.ldBVx x) (.memOutOfRange (max s.dataBase memSize) .write)
  | storeOut (x : Reg) : Raises s (.ldMemVx x) (.memOutOfRange (max s.dataBase memSize) .write)
  | noKey (x : Reg) (h : 16 ≤ (s.readV x).toNat) : Raises s (.skp x) (.keyIndexOutOfRange (s.readV x))
  | noKeyNot (x : Reg) (h : 16 ≤ (s.readV x).toNat) : Raises s (.sknp x) (.keyIndexOutOfRange (s.readV x))

/-- The drawing loop fails at a pixel outside the buffer only (R211). -/
theorem drawPixels_error {f : Fault} :
    ∀ {ps : List (Nat × Nat)} {scr : Screen} {c : Bool}, drawPixels scr c ps = .error f →
      ∃ px py, f = .drawOutOfRange px py ∧ (64 ≤ px ∨ 32 ≤ py)
  | [], _, _, h => by cases h
  | (x, y) :: ps, scr, c, h => by
    rw [drawPixels] at h
    split at h
    case isTrue hout => cases h; exact ⟨x, y, rfl, hout⟩
    case isFalse => exact drawPixels_error h

section Raise
variable {s : State} {f : Fault}

theorem eq_of_takeFault {g : Fault} (h : (.next (takeFault g s) : Outcome) = .next (takeFault f s)) : g = f := by
  injection h with h
  simpa using congrArg State.fault h

/-- Where no fault was set, a state that has taken one is not a state that keeps the fault field. -/
theorem not_takeFault_of_kept {t : State} (hs : s.fault = none) (ht : t.fault = s.fault) :
    (.next t : Outcome) ≠ .next (takeFault f s) := by
  intro h
  injection h with h
  rw [h, hs] at ht
  cases ht

theorem raises_of_execDrw {x y : Reg} {n : Nat} (hs : s.fault = none)
    (h : exec (.drw x y n) s = .next (takeFault f s)) : Raises s (.drw x y n) f := by
  by_cases hfit : n = 0 ∨ s.dataBase + n ≤ memSize
  · rw [exec_drw_fits hfit] at h
    cases hd : drawPixels s.screen false (drawnPixels s x y n) with
    | ok r => rw [hd] at h; exact absurd h (not_takeFault_of_kept hs rfl)
    | error g =>
      rw [hd] at h
      obtain ⟨px, py, rfl, hout⟩ := drawPixels_error hd
      exact eq_of_takeFault h ▸ .pixelOut x y n hout
  · exact eq_of_takeFault ((execDrw_out s x y n (by omega) (by omega)).symm.trans h) ▸ .rowsOut x y n

/-- A fault that an instruction takes is one of those it can raise. -/
theorem raises_of_exec {i : Instr} (hs : s.fault = none) (h : exec i s = .next (takeFault f s)) : Raises s i f := by
  cases i with
  | drw x y n => exact raises_of_execDrw hs h
  | ldBVx x =>
    rcases Nat.lt_or_ge memSize (s.dataBase + 3) with hn | hn
    · exact eq_of_takeFault ((execLdBVx_out s x hn).symm.trans h) ▸ .digitsOut x
    · exact absurd ((execLdBVx_fits s x hn).symm.trans h) (not_takeFault_of_kept hs rfl)
  | ldMemVx x =>
    rcases Nat.lt_or_ge memSize (s.dataBase + x.val + 1) with hn | hn
    · exact eq_of_takeFault ((execLdMemVx_out s x hn).symm.trans h) ▸ .storeOut x
    · exact absurd ((execLdMemVx_fits s x hn).symm.trans h) (not_takeFault_of_kept hs (by simp))
  | ldVxMem x =>
    rcases Nat.lt_or_ge memSize (s.dataBase + x.val + 1) with hn | hn
    · exact eq_of_takeFault ((execLdVxMem_out s x hn).symm.trans h) ▸ .loadOut x
    · exact absurd ((execLdVxMem_fits s x hn).symm.trans h) (not_takeFault_of_kept hs (by simp))
  | skp x =>
    rcases Nat.lt_or_ge (s.readV x).toNat 16 with hk | hk
    · exact absurd ((keySkip_named id hk).symm.trans h) (not_takeFault_of_kept hs (s.skipIf_fault _))
    · exact eq_of_takeFault ((keySkip_unnamed id hk).symm.trans h) ▸ .noKey x hk
  | sknp x =>
    rcases Nat.lt_or_ge (s.readV x).toNat 16 with hk | hk
    · exact absurd ((keySkip_named Bool.not hk).symm.trans h) (not_takeFault_of_kept hs (s.skipIf_fault _))
    · exact eq_of_takeFault ((keySkip_unnamed Bool.not hk).symm.trans h) ▸ .noKeyNot x hk
  | ldVxK x =>
    simp only [exec, execLdVxK] at h
    cases hk : pickKey s.draws (pressedKeys s) with
    | none => rw [hk] at h; exact absurd h (not_takeFault_of_kept hs rfl)
    | some k => rw [hk] at h; exact absurd h (not_takeFault_of_kept hs rfl)
  | seImm | sneImm | seReg | sneReg => exact absurd h (not_takeFault_of_kept hs (s.skipIf_fault _))
  | cls | ret | jp | call | ldImm | addImm | mov | or | and | xor | add | sub | shr | subn | shl | ldI | jpV0 | rnd
  | ldVxDt | ldDtVx | ldStVx | addIVx | ldFVx => exact absurd h (not_takeFault_of_kept hs rfl)

end Raise

/-! ### The end of a step (R90, R320 to R322) -/

theorem soundLevel_eq (b : Byte) : soundLevel b = if b.toNat > 0 then .soundOn else .soundOff := by
  by_cases hb : b = 0
  · rw [hb]; rfl
  · rw [soundLevel, if_neg hb, if_pos (Nat.pos_of_ne_zero fun h => hb (BitVec.eq_of_toNat_eq h))]

theorem keepsAllBut_endStep (t : State) :
    KeepsAllBut [.stepCounter, .redraw, .tickStep, .dt, .st, .cycleCounter, .outputs] t (endStep t) := by
  intro p hp
  rcases Nat.lt_or_ge (t.tickStep + 1) t.cfg.stepsPerTick with h | h
  · rw [endStep_inside h]
    cases p <;> simp [Keeps, State.readV, State.stackAt, State.byteAt] at hp ⊢
  · rw [endStep_last h]
    cases p <;> simp [Keeps, State.readV, State.stackAt, State.byteAt] at hp ⊢

theorem endStep_stepCounter_redraw (t : State) :
    (endStep t).stepCounter = t.stepCounter + 1 ∧ (endStep t).redraw = false := by
  rcases Nat.lt_or_ge (t.tickStep + 1) t.cfg.stepsPerTick with h | h
  · rw [endStep_inside h]; exact ⟨rfl, rfl⟩
  · rw [endStep_last h]; exact ⟨rfl, rfl⟩

/-! ### Runs of steps on the ticks (R320) -/

/-- `k` steps without a fault lead from `s` to `t`, counted in the steps and in the positions of the ticks; the block
is still legal and active, with no host input. -/
structure TickedOn (s : State) (k : Nat) (t : State) : Prop where
  legal : t.Inv
  active : t.active = true
  noInput : t.inputs = []
  cfg : t.cfg = s.cfg
  steps : t.stepCounter = s.stepCounter + k
  position : t.cycleCounter * t.cfg.stepsPerTick + t.tickStep = s.cycleCounter * s.cfg.stepsPerTick + s.tickStep + k

theorem TickedOn.trans {s t u : State} {j k : Nat} (h : TickedOn s j t) (h' : TickedOn t k u) :
    TickedOn s (k + j) u where
  legal := h'.legal
  active := h'.active
  noInput := h'.noInput
  cfg := h'.cfg.trans h.cfg
  steps := by rw [h'.steps, h.steps]; omega
  position := by rw [h'.position, h.position]; omega

section Ticks
variable {s t : State} (hs : s.Inv) (ha : s.active = true) (hi : s.inputs = [])
include hs ha hi

/-- One step without a fault. -/
theorem tickedOn_of_step (h : step s = .next t) (ht : t.fault = none) : TickedOn s 1 t := by
  have h0 : StepStartsAt s s := ⟨ha, .inl ⟨.inr hi, rfl⟩⟩
  obtain ⟨hsteps, hcfg, hpos⟩ := everyStepMovesOnePositionInTheTicks s s t hs h0 h ht
  rcases step_cases h0 h with ⟨f, rfl⟩ | ⟨u, hu, rfl⟩
  · cases ht
  · obtain ⟨-, hrun, hinputs, -, -⟩ := endStep_keeps u
    exact
      { legal := stepKeepsTheStateLegal s _ hs h
        active := active_iff.2 ⟨hrun.trans (hu.run.trans (active_iff.1 ha).1), ht⟩
        noInput := hinputs.trans (hu.inputs.trans hi)
        cfg := hcfg
        steps := hsteps
        position := hpos }

end Ticks

/-- R303: without a host input a faulted block stays as it is for any number of moves. -/
theorem run_of_fault {s : State} (hf : s.fault ≠ none) (hi : s.inputs = []) :
    ∀ k, Sys2Proof.core.run k s = .next s
  | 0 => rfl
  | k + 1 => (run_of_step (step_of_fault_of_no_input hf hi)).trans (run_of_fault hf hi k)

/-- A run that ends without a fault has met none on the way, so each of its moves is a step. -/
theorem tickedOn_of_run {t : State} (ht : t.fault = none) :
    ∀ {k : Nat} {s : State}, s.Inv → s.active = true → s.inputs = [] → Sys2Proof.core.run k s = .next t →
      TickedOn s k t
  | 0, s, hs, ha, hi, h => by
    cases h
    exact ⟨hs, ha, hi, rfl, rfl, rfl⟩
  | k + 1, s, hs, ha, hi, h => by
    obtain ⟨u, hstep, hrun⟩ := step_of_run h
    have hu : u.fault = none := by
      rcases step_cases ⟨ha, .inl ⟨.inr hi, rfl⟩⟩ hstep with ⟨f, rfl⟩ | ⟨v, hv, rfl⟩
      · cases (run_of_fault (s := takeFault f s) nofun hi k).symm.trans hrun
        cases ht
      · exact (endStep_keeps v).1.trans (hv.fault.trans (active_iff.1 ha).2)
    have hfirst := tickedOn_of_step hs ha hi hstep hu
    exact hfirst.trans (tickedOn_of_run ht hfirst.legal hfirst.active hfirst.noInput hrun)

/-- STEPS_PER_TICK steps from the start of a tick end at the start of the next: the position inside a tick is less than
STEPS_PER_TICK (R37). -/
theorem TickedOn.next_tick {s t : State} (h : TickedOn s s.cfg.stepsPerTick t) (h0 : s.tickStep = 0) :
    t.tickStep = 0 ∧ t.cycleCounter = s.cycleCounter + 1 := by
  have hlt : t.tickStep < s.cfg.stepsPerTick := h.cfg ▸ h.legal.tickRange
  have hpos : t.tickStep + s.cfg.stepsPerTick * t.cycleCounter = s.cfg.stepsPerTick * (s.cycleCounter + 1) := by
    have := h.position
    rw [h.cfg, h0] at this
    rw [Nat.mul_comm, Nat.mul_comm _ (s.cycleCounter + 1), Nat.succ_mul]; omega
  obtain ⟨hdiv, hmod⟩ := (Nat.div_mod_unique (Nat.zero_lt_of_lt hlt)).2 ⟨hpos, hlt⟩
  rw [Nat.mul_div_cancel_left _ (Nat.zero_lt_of_lt hlt)] at hdiv
  rw [Nat.mul_mod_right] at hmod
  exact ⟨hmod.symm, hdiv.symm⟩

/-! ### Frames of the host's ports -/

section Ports
variable (s : State) (rest : List HostInput)

theorem keepsAllBut_inputs : KeepsAllBut [.inputs] s { s with inputs := rest } := by
  intro p hp; cases p <;> simp [Keeps, State.readV, State.stackAt, State.byteAt] at hp ⊢

theorem keepsAllBut_runState (r : RunState) (b : Bool) :
    KeepsAllBut [.run, .stopIssued] s { s with run := r, stopIssued := b } := by
  intro p hp; cases p <;> simp [Keeps, State.readV, State.stackAt, State.byteAt] at hp ⊢

theorem keepsAllBut_startBlock (ht : s.tickStep = 0) : KeepsAllBut [.run, .stopIssued] s (startBlock s) := by
  have h : startBlock s = { s with run := .running, stopIssued := false } := by rw [startBlock, ← ht]
  rw [h]
  exact keepsAllBut_runState s _ _

theorem keepsAllBut_stopBlock : KeepsAllBut [.run, .stopIssued] s (stopBlock s) := by
  obtain ⟨b, hb⟩ := stopBlock_eq s
  rw [hb]
  exact keepsAllBut_runState s _ _

theorem stopBlock_run : (stopBlock s).run = .stopped := by
  obtain ⟨b, hb⟩ := stopBlock_eq s
  rw [hb]

theorem keepsAllBut_keys (ks : Vector Bool 16) : KeepsAllBut [.keys] s { s with keys := ks } := by
  intro p hp; cases p <;> simp [Keeps, State.readV, State.stackAt, State.byteAt] at hp ⊢

theorem keepsAllBut_quirks (a b : Bool) : KeepsAllBut [.loadStore, .shift] s { s with loadStore := a, shift := b } := by
  intro p hp; cases p <;> simp [Keeps, State.readV, State.stackAt, State.byteAt] at hp ⊢

theorem keepsAllBut_slots (l : List (Nat × Snapshot)) : KeepsAllBut [.slots] s { s with slots := l } := by
  intro p hp; cases p <;> simp [Keeps, State.readV, State.stackAt, State.byteAt] at hp ⊢

end Ports

/-! ### The statements of 60_exceptions.md -/

/-- Settles O10: the end of the step inside the tick and after its last step, and its frame. -/
theorem theEndOfAStepRunsTheTick : Obligations.TheEndOfAStepRunsTheTick := by
  intro s s0 t op i h0 hf hd hx ht
  obtain ⟨hcount, hredraw⟩ := endStep_stepCounter_redraw t
  refine ⟨endStep t, ?_, hcount, hredraw, fun hin => ?_, fun hlast => ?_, keepsAllBut_endStep t⟩
  · rw [step_of_start h0, instructionStep_of_decode hf hd, hx, finishOutcome, finish_of_none ht]
  · rw [endStep_inside hin]
    exact ⟨rfl, rfl, rfl, rfl, rfl⟩
  · rw [endStep_last hlast, soundLevel_eq]
    exact ⟨rfl, toNat_countDown _, toNat_countDown _, rfl, rfl⟩

/-- Settles O44: only a step of the instruction stream raises a fault, and it takes it from the state it starts in;
with a fault set only host inputs move, and they keep the record. -/
theorem faultsArePreciseAndFinal : Obligations.FaultsArePreciseAndFinal := by
  refine ⟨fun s t hs h ht => ?_, fun s t r hs h hr => ?_⟩
  · by_cases hstart : ∃ s0, StepStartsAt s s0
    · obtain ⟨s0, h0⟩ := hstart
      rcases step_cases h0 h with ⟨f, rfl⟩ | ⟨u, hu, rfl⟩
      · exact ⟨s0, f, h0, rfl⟩
      · exact absurd ((endStep_keeps u).1.trans (hu.fault.trans h0.fault_eq_none)) ht
    · rw [step_of_no_start (not_exists.1 hstart)] at h
      exact absurd (fault_eq_none_of_hostMove hs h) ht
  · rw [step_of_fault (by rw [hs]; exact nofun)] at h
    exact (keepsRecord_of_hostMove hr h).1.trans hs

/-- Settles O45: the next move is a host input, or none. -/
theorem aFaultedBlockTakesNoStep : Obligations.AFaultedBlockTakesNoStep := by
  refine fun s t hs h => ⟨fun hi => ?_, fun hr => keepsRecord_of_hostMove hr (step_of_fault hs ▸ h)⟩
  cases (step_of_fault_of_no_input hs hi).symm.trans h
  rfl

/-- Settles O46: each way to raise a fault falls under its line of R300. -/
theorem eachFaultCauseHasItsInstructions : Obligations.EachFaultCauseHasItsInstructions := by
  refine ⟨fun i s t r hs h hr => ?_, fun _ => rfl, fun _ _ => rfl, fun _ => rfl, fun _ _ => rfl⟩
  obtain ⟨f, rfl⟩ := takeFault_of_exec h hs (by rw [hr]; exact nofun)
  cases hr
  have haddr : 0x1000 ≤ max s.dataBase memSize ∧ s.dataBase ≤ max s.dataBase memSize :=
    ⟨Nat.le_max_right .., Nat.le_max_left ..⟩
  refine ⟨rfl, ?_⟩
  cases raises_of_exec hs h with
  | rowsOut x y n => exact .inl ⟨_, haddr.1, haddr.2, .inl ⟨rfl, .inl ⟨x, y, n, rfl⟩⟩⟩
  | loadOut x => exact .inl ⟨_, haddr.1, haddr.2, .inl ⟨rfl, .inr ⟨x, rfl⟩⟩⟩
  | digitsOut x => exact .inl ⟨_, haddr.1, haddr.2, .inr ⟨rfl, x, .inl rfl⟩⟩
  | storeOut x => exact .inl ⟨_, haddr.1, haddr.2, .inr ⟨rfl, x, .inr rfl⟩⟩
  | noKey x hk => exact .inr (.inl ⟨x, rfl, hk, .inl rfl⟩)
  | noKeyNot x hk => exact .inr (.inl ⟨x, rfl, hk, .inr rfl⟩)
  | pixelOut x y n hout => exact .inr (.inr ⟨_, _, rfl, hout, x, y, n, rfl⟩)

/-- Settles O51: STEPS_PER_TICK steps without a fault, each one position on. -/
theorem aTickIsItsFixedNumberOfSteps : Obligations.ATickIsItsFixedNumberOfSteps := by
  intro s t hs ha hi h0 h ht
  have hticked := tickedOn_of_run ht hs ha hi h
  obtain ⟨htick, hcycle⟩ := hticked.next_tick h0
  exact ⟨htick, hcycle, hticked.steps, hticked.active⟩

/-- Settles O56: the slot holds the snapshot last saved into it. -/
theorem restoreBringsBackTheSavedFields : Obligations.RestoreBringsBackTheSavedFields := by
  intro s slot rest h hi
  refine ⟨_, step_of_input hi (h.imp_right fun ht => ⟨ht, nofun⟩),
    (keepsAllBut_inputs s rest).trans (keepsAllBut_slots _ _), fun u rest' hslots hrun hi' => ?_⟩
  have hfind : findSlot u.slots slot = some s.snapshot := hslots ▸ findSlot_putSlot slot _ _
  exact (step_of_input hi' (.inl (inactive_of_stopped hrun))).trans
    (hostInput_cmdRestore (s := { u with inputs := rest' }) hrun hfind)

/-- Settles O9: the step starts in `s0` and goes no further than its fetch. -/
theorem fetchFaultIsTakenBeforeDecode : Obligations.FetchFaultIsTakenBeforeDecode := by
  intro s s0 f h0 hf
  rw [step_of_start h0]
  simp only [instructionStep, hf]

/-- Settles O57: each of the four is a command of the stopped block. -/
theorem commandsOutOfTurnGetNoMove : Obligations.CommandsOutOfTurnGetNoMove := by
  intro s c rest hrun ht hi hc
  have hno : c ≠ .tick := by rintro rfl; simp at hc
  rw [step_of_input hi (.inr ⟨ht, hno⟩)]
  rcases hc with rfl | rfl | ⟨bytes, rfl⟩ | ⟨slot, rfl⟩ <;> exact whileStopped_running _ hrun

/-- Settles O58: each input takes effect between the ticks, with the frame of its port. -/
theorem hostPortsWriteOnlyTheirFields : Obligations.HostPortsWriteOnlyTheirFields := by
  intro s rest ht
  have hinputs := keepsAllBut_inputs s rest
  refine ⟨fun hrun hi => ?_, fun hi => ?_, fun ks hi => ?_, fun a b hi => ?_, fun hrun hi => ?_⟩
  · exact ⟨_, (step_of_input hi (.inr ⟨ht, nofun⟩)).trans (whileStopped_stopped _ hrun), rfl, rfl,
      (hinputs.trans (keepsAllBut_startBlock _ ht)).mono (by decide)⟩
  · exact ⟨_, step_of_input hi (.inr ⟨ht, nofun⟩), stopBlock_run _,
      fun hrun => by rw [stopBlock_running { s with inputs := rest } hrun],
      fun hrun => by rw [stopBlock_stopped { s with inputs := rest } hrun],
      (hinputs.trans (keepsAllBut_stopBlock _)).mono (by decide)⟩
  · exact ⟨_, step_of_input hi (.inr ⟨ht, nofun⟩), rfl, (hinputs.trans (keepsAllBut_keys _ ks)).mono (by decide)⟩
  · exact ⟨_, step_of_input hi (.inr ⟨ht, nofun⟩), rfl, rfl,
      (hinputs.trans (keepsAllBut_quirks _ a b)).mono (by decide)⟩
  · exact ⟨_, step_of_input hi (.inl (inactive_of_stopped hrun)), hinputs⟩

end Sys2Proof.Machine

/-! PROOFS of the statements of 70_reset_and_hazards.md. A jump to itself leaves the state as it is, so a step there is
the end of a step alone; the reset command and the load are each one move, and the boot is four; and only a `stop()`
leads to the end of R403 (c), by a split over steps and host inputs. -/

namespace Sys2Proof.Machine

/-! ### A jump to itself (R403 (b)) -/

/-- What a legal active block with no host input there may change at a jump to itself. -/
def KeepsAtSelfJump (s t : State) : Prop :=
  KeepsAllBut [.stepCounter, .cycleCounter, .tickStep, .dt, .st, .outputs] s t

/-- A legal active block at a jump to itself, with no host input there. -/
structure AtSelfJump (s : State) : Prop where
  legal : s.Inv
  active : s.active = true
  noInput : s.inputs = []
  ended : EndedInSelfJump s

section SelfJump
variable {s t : State}

/-- The end of a step from a state that leaves no screen to send out. -/
theorem keepsAtSelfJump_endStep (h : s.redraw = false) : KeepsAtSelfJump s (endStep s) := by
  intro p hp
  by_cases hr : p = .redraw
  · subst hr
    exact (endStep_stepCounter_redraw s).2.trans h.symm
  · exact keepsAllBut_endStep s p (by simp at hp ⊢; tauto)

/-- The jump writes the PC that stands there, so its step is the end of a step. -/
theorem AtSelfJump.step_eq (h : AtSelfJump s) : step s = .next (endStep s) := by
  obtain ⟨hfault, hfetch, hpc⟩ := h.ended
  have hexec : exec (.jp s.pc) s = .next s := rfl
  rw [step_of_start ⟨h.active, .inl ⟨.inr h.noInput, rfl⟩⟩,
    instructionStep_of_decode hfetch (decode_encode (.jp s.pc) (decide_eq_true hpc)), hexec, finishOutcome,
    finish_of_none hfault]

/-- What a step there may change decides neither where the block stands nor that it is active. -/
theorem AtSelfJump.of_keeps (h : AtSelfJump s) (ht : t.Inv) (hk : KeepsAtSelfJump s t) : AtSelfJump t := by
  obtain ⟨hs, hfetch, hrange⟩ := h.ended
  have hpc : t.pc = s.pc := hk .pc (by decide)
  have hrun : t.run = s.run := hk .run (by decide)
  have hfault : t.fault = s.fault := hk .fault (by decide)
  have hinputs : t.inputs = s.inputs := hk .inputs (by decide)
  exact
    { legal := ht
      active := active_iff.2 ⟨hrun.trans (active_iff.1 h.active).1, hfault.trans hs⟩
      noInput := hinputs.trans h.noInput
      ended := ⟨hfault.trans hs, by rw [fetch_congr hpc (hk .mem (by decide)), hpc, hfetch], hpc ▸ hrange⟩ }

/-- Every run stays there. -/
theorem AtSelfJump.run : ∀ (k : Nat) {s : State}, AtSelfJump s →
    ∃ t, Sys2Proof.core.run k s = .next t ∧ KeepsAtSelfJump s t ∧ AtSelfJump t
  | 0, s, h => ⟨s, rfl, keepsAllBut_refl s _, h⟩
  | k + 1, s, h => by
    have hfirst := keepsAtSelfJump_endStep h.legal.redrawClear
    have hnext := h.of_keeps (stepKeepsTheStateLegal s _ h.legal h.step_eq) hfirst
    obtain ⟨t, hrun, hrest, ht⟩ := AtSelfJump.run k hnext
    exact ⟨t, (run_of_step h.step_eq).trans hrun, (hfirst.trans hrest).mono (by simp), ht⟩

end SelfJump

/-! ### The reset command, the load and `run()` on a stopped block (R400, R401, R335) -/

section Commands
variable {s : State} {rest : List HostInput} (hrun : s.run = .stopped)
include hrun

/-- A command that waits for a stopped block has its effect as the next input. -/
theorem step_of_whileStopped {c : HostInput} {o : Outcome} (hi : s.inputs = c :: rest)
    (hc : hostInput c { s with inputs := rest } = whileStopped c { s with inputs := rest } o) : step s = o :=
  ((step_of_input hi (.inl (inactive_of_stopped hrun))).trans hc).trans (whileStopped_stopped _ hrun)

theorem step_cmdReset (hi : s.inputs = .cmdReset :: rest) :
    step s = .next (resetBlock { s with inputs := rest }) :=
  step_of_whileStopped hrun hi rfl

theorem step_cmdLoadRom {bytes : List Byte} (hi : s.inputs = .cmdLoadRom bytes :: rest) :
    step s = .next (loadRom bytes { s with inputs := rest }) :=
  step_of_whileStopped hrun hi rfl

theorem step_cmdRun (hi : s.inputs = .cmdRun :: rest) :
    step s = .next (startBlock { s with inputs := rest }) :=
  step_of_whileStopped hrun hi rfl

theorem step_setQuirks {a b : Bool} (hi : s.inputs = .setQuirks a b :: rest) :
    step s = .next { s with inputs := rest, loadStore := a, shift := b } :=
  step_of_input hi (.inl (inactive_of_stopped hrun))

end Commands

/-- After a reset, a second reset command changes nothing more. -/
theorem step_cmdReset_resetBlock (s : State) (rest : List HostInput) :
    step { resetBlock s with inputs := .cmdReset :: rest } = .next { resetBlock s with inputs := rest } :=
  step_cmdReset (s := { resetBlock s with inputs := .cmdReset :: rest }) rfl rfl

section Load
variable (s : State) {bytes : List Byte}

/-- Each byte that `loadRom` copies stands at its place. -/
theorem byteAt_loadRom_inside {k : Nat} (hfit : bytes.length + programBase ≤ memSize)
    (hm : Memory.wf s.cfg s.mem = true) (hk : k < bytes.length) :
    (loadRom bytes s).byteAt (programBase + k) = bytes.getD k 0 := by
  rw [loadRom_fits s hfit, s.byteAt_putAll _ _ _ (by omega) hm, if_pos (by omega), Nat.add_sub_cancel_left]

theorem keepsBytesOutside_loadRom (hfit : bytes.length + programBase ≤ memSize)
    (hm : Memory.wf s.cfg s.mem = true) : KeepsBytesOutside programBase bytes.length s (loadRom bytes s) := by
  intro x hx
  rw [loadRom_fits s hfit, s.byteAt_putAll _ _ _ (by omega) hm, if_neg (by omega)]

theorem keepsAllBut_emit (o : Output) : KeepsAllBut [.outputs] s (s.emit o) := by
  intro p hp; cases p <;> simp [Keeps] at hp ⊢

/-- Fitting or not, `loadRom` writes memory or the report only. -/
theorem keepsAllBut_loadRom (bytes : List Byte) : KeepsAllBut [.mem, .outputs] s (loadRom bytes s) := by
  rcases Nat.lt_or_ge memSize (bytes.length + programBase) with h | h
  · rw [loadRom_tooLarge s h]; exact (keepsAllBut_emit s _).mono (by simp)
  · rw [loadRom_fits s h]; exact (keepsAllBut_setMem s _).mono (by simp)

end Load

/-! ### The boot (R402) -/

/-- The reset block with the host's quirk bits, and `run()` as the input after the load. -/
def configuredBlock (s : State) (a b : Bool) : State :=
  { resetBlock s with inputs := [.cmdRun], loadStore := a, shift := b }

/-- The block that the boot order starts, whether its load has fitted or not. -/
def bootedBlock (s : State) (bytes : List Byte) (a b : Bool) : State :=
  startBlock { loadRom bytes (configuredBlock s a b) with inputs := [] }

theorem byteAt_startBlock_inputs (t : State) (rest : List HostInput) (x : Nat) :
    (startBlock { t with inputs := rest }).byteAt x = t.byteAt x := rfl

/-- Of what the reset and the quirk port have set up, the load and `run()` change memory and the run only. -/
theorem keepsAllBut_bootedBlock (s : State) (bytes : List Byte) (a b : Bool) :
    KeepsAllBut [.mem, .outputs, .inputs, .run, .stopIssued] (configuredBlock s a b) (bootedBlock s bytes a b) := by
  have hload := keepsAllBut_loadRom (configuredBlock s a b) bytes
  have hloaded := hload.trans (keepsAllBut_inputs _ [])
  exact hloaded.trans (keepsAllBut_startBlock _ (hloaded .tickStep (by decide)))

theorem byteAt_bootedBlock (s : State) (bytes : List Byte) (a b : Bool) (x : Nat) :
    (bootedBlock s bytes a b).byteAt x = (loadRom bytes (configuredBlock s a b)).byteAt x :=
  byteAt_startBlock_inputs _ [] x

/-- The four inputs of the boot order are one move each. -/
theorem run_boot {s : State} {bytes : List Byte} {a b : Bool} (hrun : s.run = .stopped)
    (hi : s.inputs = [.cmdReset, .setQuirks a b, .cmdLoadRom bytes, .cmdRun]) :
    Sys2Proof.core.run 4 s = .next (bootedBlock s bytes a b) := by
  have hload := keepsAllBut_loadRom (configuredBlock s a b) bytes
  rw [run_of_step (step_cmdReset hrun hi), run_of_step (step_setQuirks rfl rfl),
    run_of_step (step_cmdLoadRom rfl rfl)]
  exact run_of_step (step_cmdRun (hload .run (by decide)) (hload .inputs (by decide)))

/-! ### The end by `stop()` (R403 (c)) -/

section Stop
variable {s s0 t : State}

/-- The end by `stop()` is read off four parts of the state. -/
theorem EndedByStop.of_keeps {l : List Part} (h : EndedByStop t) (hk : KeepsAllBut l s t)
    (hl : ∀ p ∈ [Part.stopIssued, .run, .fault, .tickStep], p ∉ l) : EndedByStop s := by
  obtain ⟨hstop, hrun, hfault, htick⟩ := h
  exact ⟨(hk .stopIssued (hl _ (by simp))).symm.trans hstop, (hk .run (hl _ (by simp))).symm.trans hrun,
    (hk .fault (hl _ (by simp))).symm.trans hfault, (hk .tickStep (hl _ (by simp))).symm.trans htick⟩

/-- A step of the instruction stream ends in a fault or leaves the block Running. -/
theorem not_endedByStop_of_start (h0 : StepStartsAt s s0) (h : step s = .next t) : ¬ EndedByStop t := by
  rintro ⟨-, hstopped, hfault, -⟩
  rcases step_cases h0 h with ⟨f, rfl⟩ | ⟨u, hu, rfl⟩
  · cases hfault
  · obtain ⟨-, hend, -, -, -⟩ := endStep_keeps u
    have hrun : s0.run = s.run := by rw [h0.eq_inputs]
    have hrunning : s.run = .running := (active_iff.1 h0.1).1
    cases (hend.trans (hu.run.trans (hrun.trans hrunning))).symm.trans hstopped

/-- Of the host inputs only a `stop()` that finds the block Running leads to this end. -/
theorem endedByStop_of_hostInput {c : HostInput} (h : hostInput c s = .next t) (ht : EndedByStop t) :
    EndedByStop s ∨ s.run = .running ∧ c = .cmdStop := by
  cases c with
  | cmdStop =>
    cases hr : s.run with
    | running => exact .inr ⟨rfl, rfl⟩
    | stopped => cases h; exact .inl (stopBlock_stopped s hr ▸ ht)
  | cmdRun =>
    cases whileStopped_next h
    obtain ⟨-, hstopped, -⟩ := ht
    cases hstopped
  | cmdReset =>
    cases whileStopped_next h
    obtain ⟨hstop, -⟩ := ht
    cases hstop
  | cmdLoadRom bytes =>
    injection whileStopped_next h with e
    subst e
    exact .inl (ht.of_keeps (keepsAllBut_loadRom s bytes) (by decide))
  | cmdRestore slot =>
    have h := whileStopped_next h
    cases hp : findSlot s.slots slot with
    | none => rw [hp] at h; cases h
    | some p => rw [hp] at h; cases h; exact .inl ht
  | tick | cmdSave | setKeys | setQuirks => cases h; exact .inl ht

theorem endedByStop_of_hostMove (h : hostMove s = .next t) (ht : EndedByStop t) :
    EndedByStop s ∨ s.run = .running ∧ ∃ rest, s.inputs = .cmdStop :: rest := by
  cases hi : s.inputs with
  | nil => simp only [hostMove, hi] at h; cases h; exact .inl ht
  | cons c rest =>
    simp only [hostMove, hi] at h
    refine (endedByStop_of_hostInput (s := { s with inputs := rest }) h ht).imp_right ?_
    rintro ⟨hrun, rfl⟩
    exact ⟨hrun, rest, rfl⟩

/-- An active block has ended only where a jump to itself stands. -/
theorem endedInSelfJump_of_active (ha : s.active = true) (h : Ended s) : EndedInSelfJump s := by
  obtain ⟨hrun, hfault⟩ := active_iff.1 ha
  rcases h with hf | hj | ⟨-, hstopped, -⟩
  · exact absurd hfault hf
  · exact hj
  · cases hrun.symm.trans hstopped

/-- The word at PC decodes to one instruction, so where it is another one no jump to itself stands. -/
theorem not_endedInSelfJump_of_fetch {op : Word} (hf : fetch s = .ok op) (hd : decode op ≠ .ok (.jp s.pc)) :
    ¬ EndedInSelfJump s := by
  rintro ⟨-, hj, hpc⟩
  obtain rfl : op = encode (.jp s.pc) := Except.ok.inj (hf.symm.trans hj)
  exact hd (decode_encode (.jp s.pc) (decide_eq_true hpc))

/-- The reset state has no program at PC: the word there is 0. -/
theorem fetch_reset : fetch State.reset = .ok 0 := by
  obtain ⟨-, hzero, -⟩ := resetGivesEveryFieldItsValue
  rw [fetch_inRange (by decide), hzero _ (by decide), hzero _ (by decide)]
  rfl

end Stop

/-! ### The statements of 70_reset_and_hazards.md -/

/-- Settles O52, by induction on the length of the run: each of its steps stays at the jump. -/
theorem aSelfJumpIsTheEndOfTheRun : Obligations.ASelfJumpIsTheEndOfTheRun := by
  intro s k hs ha hi hj
  obtain ⟨t, hrun, hk, ht⟩ := AtSelfJump.run k ⟨hs, ha, hi, hj⟩
  exact ⟨t, hrun, hk, ht.ended⟩

/-- Settles O53: the reset block has the fields of the reset state, and is its own reset block. -/
theorem resetCommandRestoresTheResetState : Obligations.ResetCommandRestoresTheResetState := by
  intro s rest hrun hi
  obtain ⟨-, -, hregs, -, -, hstack, -, -, -, hscreen, -, hkeys, -⟩ := resetGivesEveryFieldItsValue
  exact ⟨_, step_cmdReset hrun hi, fun a ha => dif_pos ha, fun a ha => dif_neg (Nat.not_lt.2 ha), hregs, rfl, rfl,
    hstack, rfl, rfl, rfl, hscreen, rfl, hkeys, rfl, rfl, rfl, rfl, rfl, rfl, rfl, rfl, rfl,
    step_cmdReset_resetBlock _⟩

/-- Settles O54: the load where the bytes fit, and the refusal where they do not. -/
theorem loadRomCopiesOrRefuses : Obligations.LoadRomCopiesOrRefuses := by
  intro s bytes rest hm hrun hi
  have hinputs := keepsAllBut_inputs s rest
  refine ⟨_, step_cmdLoadRom hrun hi, keepsAllBut_loadRom _ bytes .inputs (by decide),
    fun hfit => ⟨fun k hk => ?_, ?_, ?_⟩, fun hout => ?_⟩
  · exact byteAt_loadRom_inside _ hfit hm hk
  · exact keepsBytesOutside_loadRom { s with inputs := rest } hfit hm
  · rw [loadRom_fits _ hfit]
    exact (hinputs.trans (keepsAllBut_setMem _ _)).mono (by simp)
  · rw [loadRom_tooLarge _ hout]
    exact ⟨rfl, hinputs.trans (keepsAllBut_emit _ _)⟩

/-- Settles O55: the four inputs are one move each, and the load is into the memory of the reset. -/
theorem bootStartsTheLoadedProgram : Obligations.BootStartsTheLoadedProgram := by
  intro s bytes a b hrun hfit hi
  have hk := keepsAllBut_bootedBlock s bytes a b
  obtain ⟨-, -, hregs, -⟩ := resetGivesEveryFieldItsValue
  have hactive : (bootedBlock s bytes a b).active = true := active_iff.2 ⟨rfl, hk .fault (by decide)⟩
  refine ⟨_, run_boot hrun hi, ⟨hactive, .inl ⟨.inr rfl, rfl⟩⟩, rfl, hk .pc (by decide), hk .loadStore (by decide),
    hk .shift (by decide), fun k hin => ?_, fun k hout => ?_, fun r => (hk .regs (by decide) r).trans (hregs r),
    hk .index (by decide), hk .sp (by decide), hk .dt (by decide), hk .st (by decide)⟩
  · rw [byteAt_bootedBlock]
    exact byteAt_loadRom_inside _ hfit rfl hin
  · have hzero : (configuredBlock s a b).byteAt k = 0 := dif_neg (by omega)
    rw [byteAt_bootedBlock, keepsBytesOutside_loadRom _ hfit rfl k (.inr hout), hzero]

/-- Settles O59: a `stop()` stops the Running block and says so; a move to this end is neither a step nor another
input; FX0A is no jump to itself, and neither is the word 0. -/
theorem onlyAnIssuedStopEndsTheRunByStop : Obligations.OnlyAnIssuedStopEndsTheRunByStop := by
  refine ⟨fun s rest hrun hfault htick hi => ?_, fun s t h ht => ?_, fun s x ha hf hend => ?_, ?_⟩
  · refine ⟨_, step_of_input hi (.inr ⟨htick, nofun⟩), ?_,
      ((keepsAllBut_inputs s rest).trans (keepsAllBut_stopBlock _)).mono (by decide)⟩
    rw [stopBlock_running { s with inputs := rest } hrun]
    exact ⟨rfl, rfl, hfault, htick⟩
  · by_cases hstart : ∃ s0, StepStartsAt s s0
    · obtain ⟨s0, h0⟩ := hstart
      exact absurd ht (not_endedByStop_of_start h0 h)
    · rw [step_of_no_start (not_exists.1 hstart)] at h
      exact endedByStop_of_hostMove h ht
  · refine not_endedInSelfJump_of_fetch hf ?_ (endedInSelfJump_of_active ha hend)
    rw [decode_encode (.ldVxK x) rfl]
    exact nofun
  · rintro (hf | hj | ⟨hstop, -⟩)
    · exact hf rfl
    · exact not_endedInSelfJump_of_fetch fetch_reset (by decide) hj
    · cases hstop

end Sys2Proof.Machine
